-- ==== Sys2Proof/Word.lean ====
section
/-! DEFINITION. The word types of the station links and the two operations on fixed tables.

Bytes, 16-bit and 32-bit fields are what R190 treats as bits. Powers, heads, times and counts are
plain numbers in the manual and are `Int` or `Nat` in the model. -/
namespace Sys2Proof

/-- One byte of a frame (R190). -/
abbrev Byte := BitVec 8

/-- A device time or a duration in whole seconds (R189). -/
abbrev Time := Nat

/-- Replace entry `i` of a fixed table. -/
def upd {α : Type} {n : Nat} (v : Vector α n) (i : Fin n) (x : α) : Vector α n :=
  v.set i.val x i.isLt

@[simp] theorem upd_get_self {α : Type} {n : Nat} (v : Vector α n) (i : Fin n) (x : α) :
    (upd v i x).get i = x := by
  simp [upd, Vector.get_eq_getElem]

theorem upd_get_ne {α : Type} {n : Nat} (v : Vector α n) {i j : Fin n} (x : α) (h : i ≠ j) :
    (upd v i x).get j = v.get j := by
  have h' : i.val ≠ j.val := fun e => h (Fin.ext e)
  simp [upd, Vector.get_eq_getElem, h']

end Sys2Proof
end

