-- ==== Sys2Proof/Config.lean ====
section
/-! DEFINITION. What the part fixes once and for all: queue sizes, address ranges, the descriptor
chain's constants; and the one value the manual leaves open. -/
namespace Sys2Proof.Config

/-- Places of the own queue (R164). -/
def ownQueueSize : Nat := 8

/-- Places of the forward-up queue (R163) and of the forward-down queue (R136). -/
def forwardQueueSize : Nat := 16

/-- The longest payload of a frame (R190). -/
def maxPayload : Nat := 512

/-- The broadcast address (R157). -/
def broadcast : Nat := 255

/-- Counters saturate here (R184). -/
def counterMax : Nat := 65535

/-- The device time saturates here (R189). -/
def timeMax : Nat := 4294967295

/-- The STOPPING time taken for a machine whose unit record is ABSENT (R89). -/
def absentStopTime : Nat := 1800

/-- Descriptor record 1: vendor code, part code, revision (R180). -/
def vendorCode : Nat := 917
/-- See `vendorCode`. -/
def partCode : Nat := 612
/-- See `vendorCode`. -/
def revision : Nat := 2

/-- Descriptor record 2: bit rates of the two ports and the highest unit line address (R180). -/
def dispatchBitRate : Nat := 115200
/-- See `dispatchBitRate`. -/
def unitLineBitRate : Nat := 57600
/-- See `dispatchBitRate`. -/
def highestLineAddress : Nat := 15

/-- Descriptor records 2 and 3: places of the order queue, of the start queue, classification
entries, machines and waterway groups (R180). -/
def orderQueueSize : Nat := 10
/-- See `orderQueueSize`. -/
def startQueueSize : Nat := 8
/-- See `orderQueueSize`. -/
def classEntries : Nat := 16
/-- See `orderQueueSize`. -/
def machineCount : Nat := 8
/-- See `orderQueueSize`. -/
def groupCount : Nat := 4

/-- FREE VALUE (log entry 2). The 32 bits a READ reply carries for a recorded time that is past the
greatest device time. R190 gives a device time 32 bits and R189 stops the device time at
4294967295, but a deadline, a pin end or an expiry is that time plus a duration and can lie beyond
it; the manual states no bits for it. Nothing is assumed of this value. -/
opaque lateTimeBits : Nat → BitVec 32

end Sys2Proof.Config
end

