-- ==== Sys2Proof/Syntax.lean ====
section
/-! DEFINITION. The commands of the VN612: one constructor for each row of spec/opcode_table.json.

A command is an event at the part's ports, lines or timers. A frame row carries the envelope and the
payload bytes received (R190), so that malformed payloads (R191) are commands like any other. A
management row carries the request's source, number, index and record bytes; its frame arrives on
the dispatch port addressed to the part (R170). -/
namespace Sys2Proof

/-- The two ports: the dispatch port is port U, the unit line is port D. -/
inductive Port where
  | u
  | d
deriving DecidableEq, Repr

/-- Machines 1 to 8, held as 0 to 7. -/
abbrev UnitId := Fin 8

/-- Start converters 1 and 2, held as 0 and 1. -/
abbrev ConvId := Fin 2

/-- Waterway groups 1 to 4, held as 0 to 3. -/
abbrev GroupId := Fin 4

/-- Classification entries 1 to 16, held as 0 to 15. -/
abbrev ClassId := Fin 16

/-- The two merit lists (R11). -/
inductive MeritList where
  | gen
  | pump
deriving DecidableEq, Repr

/-- A frame less its length and check, which the other fields determine (R190). -/
structure Frame where
  dest : Byte
  src : Byte
  kind : Byte
  payload : List Byte
deriving DecidableEq, Repr

/-- The commands, in the order of spec/opcode_table.json. -/
inductive Instr where
  | uFrameCheck (bytes : List Byte)
  | frameClassify (port : Port) (dest src kind : Byte) (payload : List Byte)
  | target (port : Port) (dest src : Byte) (payload : List Byte)
  | hold (port : Port) (dest src : Byte) (payload : List Byte)
  | admission (port : Port) (dest src : Byte) (payload : List Byte)
  | head (port : Port) (dest src : Byte) (payload : List Byte)
  | unitReport (dest src : Byte) (payload : List Byte)
  | converterReport (dest src : Byte) (payload : List Byte)
  | nilReply (dest src : Byte) (payload : List Byte)
  | replyWindowReception (bytes : List Byte)
  | strayReception (bytes : List Byte)
  | receptionLimit
  | replyWindowTimeout
  | unitLineTxEnd
  | pollTxEnd
  | dispatchTxEnd
  | rampStep
  | orderStale
  | headStale
  | resolveTimerExpiry
  | statusTimerExpiry
  | transitionDeadline (u : UnitId)
  | pinEnd (u : UnitId)
  | converterDeadline (c : ConvId)
  | fullSolveComplete
  | loadSolveComplete
  | engineResetEnd
  | lineResetEnd
  | deviceResetEnd
  | resetPin
  | tripLineAssert (u : UnitId)
  | tripLineDeassert (u : UnitId)
  | emergencyStopEdge
  | localRemoteAssert
  | localRemoteDeassert
  | read (src : Byte) (req : BitVec 16) (object index : Byte)
  | writeSettings (src : Byte) (req : BitVec 16) (record : List Byte)
  | writeUnit (src : Byte) (req : BitVec 16) (index : Byte) (record : List Byte)
  | writeGroup (src : Byte) (req : BitVec 16) (index : Byte) (record : List Byte)
  | writeMerit (which : MeritList) (src : Byte) (req : BitVec 16) (record : List Byte)
  | writeClass (src : Byte) (req : BitVec 16) (index : Byte) (record : List Byte)
  | writeSeverity (src : Byte) (req : BitVec 16) (index : Byte) (record : List Byte)
  | writeNotice (src : Byte) (req : BitVec 16) (record : List Byte)
  | clearCounters (src : Byte) (req : BitVec 16)
  | clearCapture (src : Byte) (req : BitVec 16)
  | clearFlags (src : Byte) (req : BitVec 16)
  | clearLine (src : Byte) (req : BitVec 16) (index : Byte)
  | solveNow (src : Byte) (req : BitVec 16)
  | unitFaultClear (src : Byte) (req : BitVec 16) (index : Byte)
  | converterClear (src : Byte) (req : BitVec 16) (index : Byte)
  | estopClear (src : Byte) (req : BitVec 16)
  | authoritySet (src : Byte) (req : BitVec 16) (value : Byte)
  | scanStart (src : Byte) (req : BitVec 16)
  | scanStop (src : Byte) (req : BitVec 16)
  | scanStep (src : Byte) (req : BitVec 16)
  | scanConfig (src : Byte) (req : BitVec 16) (startAddr endAddr mode protection : Byte)
  | lineReset (src : Byte) (req : BitVec 16)
  | engineReset (src : Byte) (req : BitVec 16)
  | deviceReset (src : Byte) (req : BitVec 16)
  | emergencyStopRelease
  | receptionStart
  | resetPinRelease
  | deviceTimeTick
deriving DecidableEq, Repr

end Sys2Proof
end

