-- ==== Sys2Proof/Decode.lean ====
section
/-! DEFINITION. The commands that a word of bits spells. No row of spec/opcode_table.json gives bits
(every row has an empty field list), so no word spells a command. The frames' own bytes are read by
Sys2Proof/Machine/Frames.lean and Sys2Proof/Machine/Operands.lean. -/
namespace Sys2Proof

/-- The command that the word `w` of `nbits` bits spells by the table's bits: none, since the table
gives no row any bits. -/
def decodeTableWord (_nbits _w : Nat) : Option Instr := none

end Sys2Proof
end

