-- ==== Sys2Proof/Machine/Frames.lean ====
section
/-! DEFINITION. Frames as bytes: the envelope, the cyclic check and the kind codes (R190, section 11.2),
and the byte order of multi-byte fields. -/
namespace Sys2Proof.Machine

/-- The low byte of a number. -/
def byteOf (n : Nat) : Byte := BitVec.ofNat 8 n

/-- An unsigned 16-bit field, most significant byte first (R190). -/
def be16 (n : Nat) : List Byte := [byteOf (n / 256), byteOf n]

/-- An unsigned 32-bit field, most significant byte first (R190). -/
def be32 (n : Nat) : List Byte :=
  [byteOf (n / 16777216), byteOf (n / 65536), byteOf (n / 256), byteOf n]

/-- A signed 16-bit field in two's complement (R190). -/
def beInt16 (i : Int) : List Byte := be16 (BitVec.ofInt 16 i).toNat

/-- A signed 32-bit field in two's complement (R190). -/
def beInt32 (i : Int) : List Byte := be32 (BitVec.ofInt 32 i).toNat

/-- The value of an unsigned 16-bit field. -/
def nat16 (hi lo : Byte) : Nat := hi.toNat * 256 + lo.toNat

/-- The value of a signed 16-bit field. -/
def int16 (hi lo : Byte) : Int := (BitVec.ofNat 16 (nat16 hi lo)).toInt

/-- The value of an unsigned 32-bit field. -/
def nat32 (b3 b2 b1 b0 : Byte) : Nat := nat16 b3 b2 * 65536 + nat16 b1 b0

/-- One bit into the check register: polynomial x^16 + x^12 + x^5 + 1 (R190). -/
def crcBit (reg : BitVec 16) (bit : Bool) : BitVec 16 :=
  if reg.msb != bit then (reg <<< 1) ^^^ 0x1021#16 else reg <<< 1

/-- One byte into the check register, most significant bit first (R190). -/
def crcByte (reg : BitVec 16) (b : Byte) : BitVec 16 :=
  [7, 6, 5, 4, 3, 2, 1, 0].foldl (fun r i => crcBit r (b.getLsbD i)) reg

/-- The frame check over a list of bytes, from a register of all ones (R190). -/
def frameCheck (bytes : List Byte) : BitVec 16 := bytes.foldl crcByte 0xFFFF#16

/-- The bytes of a frame that the check covers: destination to last payload byte (R190). -/
def frameBody (f : Frame) : List Byte :=
  f.dest :: f.src :: f.kind :: (be16 f.payload.length ++ f.payload)

/-- A frame in order of transmission (R190). -/
def frameBytes (f : Frame) : List Byte :=
  frameBody f ++ be16 (frameCheck (frameBody f)).toNat

/-- Read a reception as a frame. `none` is a check failure: too short, too long, a length field that
disagrees with the bytes received, or a check that does not match (R154, R190). -/
def parseFrame (bytes : List Byte) : Option Frame :=
  match bytes with
  | dest :: src :: kind :: lenHi :: lenLo :: rest =>
    let len := nat16 lenHi lenLo
    if rest.length = len + 2 ∧ len ≤ Config.maxPayload then
      let f : Frame := ⟨dest, src, kind, rest.take len⟩
      if rest.drop len = be16 (frameCheck (frameBody f)).toNat then some f else none
    else none
  | _ => none

/-- A frame that can stand on a link: its payload is no longer than the envelope allows (R190). -/
def frameFits (f : Frame) : Bool := f.payload.length ≤ Config.maxPayload

end Sys2Proof.Machine

namespace Sys2Proof

/-- The frame kinds of section 11.2. -/
inductive FrameKind where
  | target | hold | admission | head
  | status | alarm | mgmtRequest | mgmtReply
  | poll | nil | unitReport | converterReport
  | startGen | startPump | changeover | stop | setpoint | attach | detach
deriving DecidableEq, Repr

end Sys2Proof

namespace Sys2Proof.Machine

/-- The code of a frame kind (section 11.2). -/
def kindCode : FrameKind → Byte
  | .target => 16 | .hold => 17 | .admission => 18 | .head => 19
  | .status => 32 | .alarm => 33 | .mgmtRequest => 34 | .mgmtReply => 35
  | .poll => 48 | .nil => 49 | .unitReport => 50 | .converterReport => 51
  | .startGen => 64 | .startPump => 65 | .changeover => 66 | .stop => 67
  | .setpoint => 68 | .attach => 69 | .detach => 70

/-- The kinds, in the order of section 11.2. -/
def allKinds : List FrameKind :=
  [.target, .hold, .admission, .head, .status, .alarm, .mgmtRequest, .mgmtReply, .poll, .nil,
   .unitReport, .converterReport, .startGen, .startPump, .changeover, .stop, .setpoint, .attach,
   .detach]

/-- The kind a code names, if any (section 11.2). -/
def kindOf (code : Byte) : Option FrameKind := allKinds.find? (fun k => kindCode k == code)

/-- Build a frame of a given kind. -/
def mkFrame (dest src : Nat) (k : FrameKind) (payload : List Byte) : Frame :=
  ⟨byteOf dest, byteOf src, kindCode k, payload⟩

end Sys2Proof.Machine
end

