-- ==== Sys2Proof/Machine/State.lean ====
section
/-! DEFINITION. The state of the VN612 as plain data, block by block, the reasons a step can stop, and the
state right after device reset. INVENTORY.md lists each field with the rule that names it. -/
namespace Sys2Proof.Machine

/-! ## Unit table (chapter 1) -/

/-- Kind of a machine (R1). -/
inductive UnitKind where
  | fixedSpeed
  | variableSpeed
deriving DecidableEq, Repr

/-- PERMITTED or NOT_PERMITTED (R1, R9). -/
inductive Permission where
  | permitted
  | notPermitted
deriving DecidableEq, Repr

/-- One point of a pump characteristic (R2). -/
structure Breakpoint where
  h : Nat
  plo : Nat
  phi : Nat
deriving DecidableEq, Repr

/-- A PRESENT unit record (R1). The converter reach is one flag for each converter. -/
structure UnitRecord where
  kind : UnitKind
  group : GroupId
  genMin : Nat
  genMax : Nat
  points : List Breakpoint
  reach1 : Bool
  reach2 : Bool
  genStartTime : Nat
  spinTime : Nat
  primeTime : Nat
  changeoverTime : Nat
  stopTime : Nat
  minRun : Nat
  minRest : Nat
  changeover : Permission
deriving DecidableEq, Repr

/-- A waterway group record (R9). `interlock` is true while SET. -/
structure GroupRecord where
  shortCircuit : Permission
  interlock : Bool
deriving DecidableEq, Repr

/-- The unit table: records (none is ABSENT), groups, merit lists, head (chapter 1). -/
structure UnitTable where
  units : Vector (Option UnitRecord) 8
  groups : Vector GroupRecord 4
  meritGen : List UnitId
  meritPump : List UnitId
  head : Nat
  headValid : Bool
  headStale : Bool
  headRef : Time
deriving DecidableEq, Repr

/-! ## Settings (R174) -/

/-- Restart policy of the solver (R47). -/
inductive RestartPolicy where
  | restart
  | latch
deriving DecidableEq, Repr

/-- Actions of the classification table and of the port defaults (R155). -/
inductive Action where
  | consume
  | forward
  | copy
  | drop
deriving DecidableEq, Repr

/-- Sense of a trip line (R181). -/
inductive Sense where
  | level
  | edge
deriving DecidableEq, Repr

/-- The fields of SETTINGS that a WRITE of SETTINGS can carry, and the use of the two write-once
writes (R174, R175). -/
structure Settings where
  stationAddr : Nat
  stationUsed : Bool
  fitted : Nat
  fittedUsed : Bool
  dispatchAddr : Nat
  plantMin : Int
  plantMax : Int
  rampInterval : Nat
  orderTimeout : Nat
  designHead : Nat
  headStaleTime : Nat
  headDeadband : Nat
  policy : RestartPolicy
  enAvailability : Bool
  enPin : Bool
  enHead : Bool
  enPeriod : Bool
  resolvePeriod : Nat
  devThreshold : Nat
  statusInterval : Nat
  attachTimeout : Nat
  pollTimeout : Nat
  missLimit : Nat
  defaultU : Action
  defaultD : Action
  senses : Vector Sense 8
deriving DecidableEq, Repr

/-! ## Target and ramp (chapter 2) -/

/-- The authority setting (R20). -/
inductive AuthoritySetting where
  | remote
  | localControl
deriving DecidableEq, Repr

/-- The effective authority (R19). -/
inductive Authority where
  | remote
  | localControl
  | estop
deriving DecidableEq, Repr

/-- The target and ramp block. `rampNext` is the next-step time of a running ramp timer. The effective
authority is derived (R19) and not stored; the plant limits, the ramp interval and the order timeout
stand in `Settings`. -/
structure TargetRamp where
  setting : AuthoritySetting
  estopLatch : Bool
  tf : Int
  te : Int
  rate : Nat
  rampNext : Option Time
  holdFlag : Bool
  clamped : Bool
  staleOrder : Bool
  orderRef : Time
deriving DecidableEq, Repr

/-! ## Trackers (chapter 5) -/

/-- The thirteen tracker states, in the order of R84. -/
inductive TState where
  | unknown | idle | notReady | genStart | gen | pumpSpin | pumpPrime | pump | changeover
  | stopping | observed | faulted | lost
deriving DecidableEq, Repr

/-- Machine states of a unit report, in the order of R82. -/
inductive UnitMode where
  | atRest | genSeq | runningGen | pumpSeqSpin | synchronized | priming | runningPump
  | changeoverSeq | stopSeq | tripped
deriving DecidableEq, Repr

/-- Fault causes of a tracker (R81). -/
inductive FaultCause where
  | noCause | unitTrip | tripLine | transitionTimeout
deriving DecidableEq, Repr

/-- Pin states (R81). -/
inductive PinState where
  | noPin | pinned | served
deriving DecidableEq, Repr

/-- A tracker record (R81). The last report's fields are `rptMode` to `rptValid`. -/
structure Tracker where
  state : TState
  entryTime : Time
  deadline : Option Time
  stopOrigin : Option TState
  granted : Option ConvId
  faultCause : FaultCause
  faultState : Option TState
  rptMode : UnitMode
  rptReady : Bool
  rptPower : Int
  rptTime : Time
  rptValid : Bool
  runSince : Option Time
  restSince : Option Time
  pin : PinState
  pinEnd : Option Time
  lastSent : Option Nat
  admitted : Bool
deriving DecidableEq, Repr

/-! ## Start queue and converters (chapter 6) -/

/-- Kinds of start queue entries (R108). -/
inductive EntryKind where
  | startGen | startPump | changeover
deriving DecidableEq, Repr

/-- Why the last walk passed an entry over (R108). -/
inductive HoldReason where
  | new | interlock | noConverter
deriving DecidableEq, Repr

/-- A start queue entry (R108). -/
structure Entry where
  unit : UnitId
  kind : EntryKind
  enqueued : Time
  reason : HoldReason
  blocking : Option UnitId
deriving DecidableEq, Repr

/-- Converter states, in the order of R117; four of them name a machine. -/
inductive ConvState where
  | absent
  | unknown
  | free
  | attaching (u : UnitId)
  | driving (u : UnitId)
  | detaching (u : UnitId)
  | observed (u : UnitId)
  | faulted
  | lost
deriving DecidableEq, Repr

/-- States of a converter report (R118). -/
inductive ConvMode where
  | idle | attached | driving | fault
deriving DecidableEq, Repr

/-- Fault causes of a converter record (R117). -/
inductive ConvCause where
  | noCause | reported | attachTimeout | detachTimeout | wrongUnit | dropped
deriving DecidableEq, Repr

/-- A converter record (R117). Its unit field is the machine its state names. -/
structure ConvRecord where
  state : ConvState
  entryTime : Time
  deadline : Option Time
  cause : ConvCause
  rptMode : ConvMode
  rptUnit : Nat
  rptTime : Time
  rptValid : Bool
deriving DecidableEq, Repr

/-! ## Dispatch solver (chapters 3 and 4) -/

/-- Classes the commitment pass assigns (R50). -/
inductive Cls where
  | gen | pump | off
deriving DecidableEq, Repr

/-- Basis of a desired class, in the order of R57. -/
inductive Basis where
  | pinned | unavailable | addedSteady | addedIdle | addedShortCircuit | removed | notAdded
deriving DecidableEq, Repr

/-- Plan diff actions, in the order of R62. -/
inductive DiffAction where
  | none | withdraw | stop | startGen | startPump | changeover | keep | leftOut
deriving DecidableEq, Repr

/-- What the snapshot keeps of one tracker (R39). -/
structure TrackerSnap where
  state : TState
  runSince : Option Time
  restSince : Option Time
  pin : PinState
  admitted : Bool
  power : Int
  valid : Bool
deriving DecidableEq, Repr

/-- The snapshot of a solve (R39). -/
structure Snapshot where
  time : Time
  tf : Int
  te : Int
  head : Nat
  units : Vector (Option UnitRecord) 8
  groups : Vector GroupRecord 4
  meritGen : List UnitId
  meritPump : List UnitId
  trackers : Vector TrackerSnap 8
  queue : List Entry
deriving DecidableEq, Repr

/-- One machine's row of the last plan (R62). -/
structure PlanRow where
  desired : Cls
  basis : Basis
  action : DiffAction
deriving DecidableEq, Repr

/-- The last plan, less its two counts (R62). -/
structure LastPlan where
  completedAt : Option Time
  tf : Int
  te : Int
  head : Nat
  lo : Int
  hi : Int
  rows : Vector PlanRow 8
  queue : List Entry
deriving DecidableEq, Repr

/-- The solver's state with the snapshot of a solve in flight (R38). -/
inductive SolvePhase where
  | idle
  | full (snap : Snapshot)
  | load (snap : Snapshot)
deriving DecidableEq, Repr

/-- The dispatch solver. `resolveNext` is the expiry of a running re-solve timer; `lastFullStart` is
the start time of the most recent full solve since device reset (R43). `deviation` is D (R69). -/
structure Solver where
  phase : SolvePhase
  fullPending : Bool
  loadPending : Bool
  headRef : Nat
  resolveNext : Option Time
  lastFullStart : Option Time
  plan : LastPlan
  completed : Nat
  discarded : Nat
  deviation : Int
deriving DecidableEq, Repr

/-! ## Unit line (chapter 7) -/

/-- Orders to a unit controller, with their arguments (R134). -/
inductive UnitOrder where
  | startGen
  | startPump (c : ConvId)
  | changeover
  | stop
  | setpoint (value : Nat)
deriving DecidableEq, Repr

/-- Orders to a start converter, with their arguments (R134). -/
inductive ConvOrder where
  | attach (u : UnitId)
  | detach
deriving DecidableEq, Repr

/-- An order and the station it goes to (R134). -/
inductive Order where
  | unit (u : UnitId) (k : UnitOrder)
  | conv (c : ConvId) (k : ConvOrder)
deriving DecidableEq, Repr

/-- An order in the order queue (R134). -/
structure QueuedOrder where
  order : Order
  queuedAt : Time
deriving DecidableEq, Repr

/-- What the line transmits. `advance` of a poll is cleared by a restart of the scan (R145). -/
inductive LineTx where
  | order (o : Order)
  | forwarded
  | poll (addr : Nat) (advance : Bool)
deriving DecidableEq, Repr

/-- The line activity (R133, R137). The poll in flight is the poll sent or the window's address.
`timeout` is the poll reply timeout the window opened with; `expired` says that it has passed while
a reception was in progress. -/
inductive LineActivity where
  | idle
  | sending (what : LineTx) (frame : Frame)
  | window (addr : Nat) (advance : Bool) (timeout : Nat) (expired : Bool)
  | resetting
deriving DecidableEq, Repr

/-- A reception in progress on the unit line, by where its first byte fell (R137, R140, R151). -/
inductive RxPlace where
  | inWindow | stray | uncounted
deriving DecidableEq, Repr

/-- Scan states (R144). -/
inductive ScanState where
  | running | paused | stopped
deriving DecidableEq, Repr

/-- Scan modes (R144). -/
inductive ScanMode where
  | continuous | single | step
deriving DecidableEq, Repr

/-- Protection modes (R149, R150). -/
inductive Protection where
  | protect | overwrite
deriving DecidableEq, Repr

/-- The unit line. `misses` holds the counts of stations 1 to 15 at places 0 to 14. -/
structure UnitLine where
  orders : List QueuedOrder
  forwardDown : List Frame
  activity : LineActivity
  rx : Option RxPlace
  scan : ScanState
  stopPending : Bool
  stepCredit : Bool
  nextAddr : Nat
  misses : Vector Nat 15
  scanStart : Nat
  scanEnd : Nat
  scanMode : ScanMode
  protection : Protection
deriving DecidableEq, Repr

/-! ## Classifier and dispatch port (chapter 8) -/

/-- Arrival port an entry applies to (R159). -/
inductive EntryPort where
  | u | d | any
deriving DecidableEq, Repr

/-- A classification entry (R159). `kinds` is none for ANY. -/
structure ClassEntry where
  inUse : Bool
  port : EntryPort
  destLo : Nat
  destHi : Nat
  exclLo : Nat
  exclHi : Nat
  kinds : Option (List Nat)
  action : Action
deriving DecidableEq, Repr

/-- A frame on the dispatch port; `resetReply` marks the reply to DEVICE_RESET (R165). -/
structure OwnFrame where
  frame : Frame
  resetReply : Bool
deriving DecidableEq, Repr

/-- The traffic counts (R169). -/
structure Traffic where
  validU : Nat
  validD : Nat
  forwardedUp : Nat
  forwardedDown : Nat
  dropped : Nat
  refreshed : Nat
deriving DecidableEq, Repr

/-- The dispatch port. `tx` is the frame in transmission; `statusLast` is the time of the last expiry
of the status timer, or the end of device reset processing before the first (R166). -/
structure DispatchPort where
  own : List OwnFrame
  forwardUp : List Frame
  tx : Option OwnFrame
  statusNext : Time
  statusLast : Time
  traffic : Traffic
deriving DecidableEq, Repr

/-! ## Line inputs and error monitor (chapter 10) -/

/-- The hardwired inputs: levels (true is asserted), flags, and the reset pin (true is low). The senses
stand in `Settings`. -/
structure Inputs where
  tripLevel : Vector Bool 8
  tripFlag : Vector Bool 8
  estopLevel : Bool
  estopFlag : Bool
  localLevel : Bool
  localFlag : Bool
  resetPinLow : Bool
deriving DecidableEq, Repr

/-- The eighteen error kinds, in the order of R183. -/
inductive ErrorKind where
  | uFrameCheck | dFrameCheck | frameKindUnknown | uOwnOverflow | forwardLoss | pollMiss
  | stationLost | transitionTimeout | converterFault | reportMismatch | targetClamped
  | orderRefused | headStale | orderStale | tableWriteRefused | unitTrip | estop | deviation
deriving DecidableEq, Repr

/-- Severities, which are also the classes (R183). -/
inductive Severity where
  | advisory | minor | major
deriving DecidableEq, Repr

/-- One value for each class. -/
structure PerClass (α : Type) where
  advisory : α
  minor : α
  major : α
deriving DecidableEq, Repr

/-- Sub-causes of a detection (section 10.2). -/
inductive SubCause where
  | none | orderSource
deriving DecidableEq, Repr

/-- A detection handed to the error monitor (section 10.2). -/
structure Detection where
  kind : ErrorKind
  station : Nat
  sub : SubCause
deriving DecidableEq, Repr

/-- The notice settings (R186). -/
structure NoticeSettings where
  addr : Nat
  enable : PerClass Bool
  code : PerClass Nat
deriving DecidableEq, Repr

/-- A filled first-major capture (R188). -/
structure Capture where
  detection : Detection
  time : Time
deriving DecidableEq, Repr

/-- The error monitor. Detected flags, counters and severities stand at places 0 to 17 for kinds 1 to
18; `now` is the device time (R189). -/
structure ErrorMonitor where
  detected : Vector Bool 18
  counters : Vector Nat 18
  orderSource : Nat
  severity : Vector Severity 18
  classFlags : PerClass Bool
  notice : NoticeSettings
  capture : Option Capture
  now : Time
deriving DecidableEq, Repr

/-! ## The whole part -/

/-- Reset processing under way, besides the line reset that the line activity shows (R178, R179). -/
inductive Processing where
  | none
  | engineReset
  | deviceReset
deriving DecidableEq, Repr

/-- The part. `resetAwaiting` is set from a DEVICE_RESET request to the end of its reply's
transmission (R179). `pending` is the model's queue of commands, first in, first out. -/
structure State where
  settings : Settings
  table : UnitTable
  target : TargetRamp
  solver : Solver
  trackers : Vector Tracker 8
  queue : List Entry
  convs : Vector ConvRecord 2
  line : UnitLine
  classes : Vector ClassEntry 16
  port : DispatchPort
  inputs : Inputs
  errors : ErrorMonitor
  processing : Processing
  resetAwaiting : Bool
  pending : List Instr
deriving DecidableEq, Repr

/-- The part never stops with a fault: the manual gives every command an effect, so this type has no
constructor. -/
inductive Fault where
deriving DecidableEq, Repr

/-- Why a step gives no meaning. -/
inductive Refusal where
  /-- Raised by an arm of `exec` whose command has no meaning in this model; it names the row. No arm
  raises it. Safe: the machine stops. -/
  | notModelled (mnemonic : String)
deriving DecidableEq, Repr

/-! ## Values after device reset -/

/-- SETTINGS after device reset (R174). -/
def Settings.reset : Settings where
  stationAddr := 240
  stationUsed := false
  fitted := 1
  fittedUsed := false
  dispatchAddr := 0
  plantMin := 0
  plantMax := 0
  rampInterval := 1
  orderTimeout := 60
  designHead := 0
  headStaleTime := 10
  headDeadband := 20
  policy := .latch
  enAvailability := true
  enPin := true
  enHead := true
  enPeriod := true
  resolvePeriod := 0
  devThreshold := 100
  statusInterval := 2
  attachTimeout := 10
  pollTimeout := 20
  missLimit := 3
  defaultU := .forward
  defaultD := .forward
  senses := Vector.replicate 8 .level

/-- The unit table after device reset (R8, R10, R11, R15). -/
def UnitTable.reset : UnitTable where
  units := Vector.replicate 8 none
  groups := Vector.replicate 4 ⟨.notPermitted, true⟩
  meritGen := []
  meritPump := []
  head := 0
  headValid := false
  headStale := false
  headRef := 0

/-- Target and ramp after device reset (R36). -/
def TargetRamp.reset : TargetRamp where
  setting := .localControl
  estopLatch := false
  tf := 0
  te := 0
  rate := 0
  rampNext := none
  holdFlag := false
  clamped := false
  staleOrder := false
  orderRef := 0

/-- A tracker record after device reset (R81). -/
def Tracker.reset : Tracker where
  state := .unknown
  entryTime := 0
  deadline := none
  stopOrigin := none
  granted := none
  faultCause := .noCause
  faultState := none
  rptMode := .atRest
  rptReady := false
  rptPower := 0
  rptTime := 0
  rptValid := false
  runSince := none
  restSince := none
  pin := .noPin
  pinEnd := none
  lastSent := none
  admitted := true

/-- A converter record after device reset, in a given state (R117). -/
def ConvRecord.resetAs (st : ConvState) : ConvRecord where
  state := st
  entryTime := 0
  deadline := none
  cause := .noCause
  rptMode := .idle
  rptUnit := 0
  rptTime := 0
  rptValid := false

/-- The solver and the deviation after device reset (R64, R78). R64 gives no T_f, T_e, H, Lo(S) and Hi(S) for the
empty last plan; the model holds 0 in each (log entry 31). -/
def Solver.reset : Solver where
  phase := .idle
  fullPending := false
  loadPending := false
  headRef := 0
  resolveNext := none
  lastFullStart := none
  plan :=
    { completedAt := none, tf := 0, te := 0, head := 0, lo := 0, hi := 0,
      rows := Vector.replicate 8 ⟨.off, .unavailable, .none⟩, queue := [] }
  completed := 0
  discarded := 0
  deviation := 0

/-- The unit line after device reset (R152). -/
def UnitLine.reset : UnitLine where
  orders := []
  forwardDown := []
  activity := .idle
  rx := none
  scan := .running
  stopPending := false
  stepCredit := false
  nextAddr := 1
  misses := Vector.replicate 15 0
  scanStart := 1
  scanEnd := 10
  scanMode := .continuous
  protection := .protect

/-- A classification entry after device reset (R159). -/
def ClassEntry.reset : ClassEntry where
  inUse := false
  port := .u
  destLo := 0
  destHi := 0
  exclLo := 0
  exclHi := 0
  kinds := none
  action := .consume

/-- All traffic counts at 0 (R169). -/
def Traffic.zero : Traffic := ⟨0, 0, 0, 0, 0, 0⟩

/-- The dispatch port after device reset: the first status expiry is one interval of 2 s after the end
of the processing (R166, R169). -/
def DispatchPort.reset : DispatchPort where
  own := []
  forwardUp := []
  tx := none
  statusNext := 2
  statusLast := 0
  traffic := .zero

/-- The default severities (R183). -/
def defaultSeverities : Vector Severity 18 :=
  #v[.advisory, .advisory, .advisory, .minor, .minor, .advisory, .major, .major, .major, .minor,
     .advisory, .minor, .minor, .major, .advisory, .major, .major, .minor]

/-- The error monitor after device reset (R183 to R189). -/
def ErrorMonitor.reset : ErrorMonitor where
  detected := Vector.replicate 18 false
  counters := Vector.replicate 18 0
  orderSource := 0
  severity := defaultSeverities
  classFlags := ⟨false, false, false⟩
  notice := ⟨0, ⟨false, false, false⟩, ⟨1, 2, 3⟩⟩
  capture := none
  now := 0

/-- The inputs with every line deasserted, every flag clear and the reset pin high (R182; log entry 1). -/
def Inputs.reset : Inputs where
  tripLevel := Vector.replicate 8 false
  tripFlag := Vector.replicate 8 false
  estopLevel := false
  estopFlag := false
  localLevel := false
  localFlag := false
  resetPinLow := false

/-- The part right after device reset with no line asserted, no command waiting. -/
def State.reset : State where
  settings := .reset
  table := .reset
  target := .reset
  solver := .reset
  trackers := Vector.replicate 8 .reset
  queue := []
  convs := #v[.resetAs .unknown, .resetAs .absent]
  line := .reset
  classes := Vector.replicate 16 .reset
  port := .reset
  inputs := .reset
  errors := .reset
  processing := .none
  resetAwaiting := false
  pending := []

end Sys2Proof.Machine
end

