-- ==== Sys2Proof/Machine/Ops.lean ====
section
/-! DEFINITION. The named operations over the state: one update per block, the lookups of records by
number, and saturating counts. Every rule's meaning is written over these. -/
namespace Sys2Proof.Machine

/-- Replace the `settings` block. -/
def State.setSettings (s : State) (x : Settings) : State := { s with settings := x }

/-- Replace the `table` block. -/
def State.setTable (s : State) (x : UnitTable) : State := { s with table := x }

/-- Replace the `target` block. -/
def State.setTarget (s : State) (x : TargetRamp) : State := { s with target := x }

/-- Replace the `solver` block. -/
def State.setSolver (s : State) (x : Solver) : State := { s with solver := x }

/-- Replace the `trackers` block. -/
def State.setTrackers (s : State) (x : Vector Tracker 8) : State := { s with trackers := x }

/-- Replace the `queue` block. -/
def State.setQueue (s : State) (x : List Entry) : State := { s with queue := x }

/-- Replace the `convs` block. -/
def State.setConvs (s : State) (x : Vector ConvRecord 2) : State := { s with convs := x }

/-- Replace the `line` block. -/
def State.setLine (s : State) (x : UnitLine) : State := { s with line := x }

/-- Replace the `classes` block. -/
def State.setClasses (s : State) (x : Vector ClassEntry 16) : State := { s with classes := x }

/-- Replace the `port` block. -/
def State.setPort (s : State) (x : DispatchPort) : State := { s with port := x }

/-- Replace the `inputs` block. -/
def State.setInputs (s : State) (x : Inputs) : State := { s with inputs := x }

/-- Replace the `errors` block. -/
def State.setErrors (s : State) (x : ErrorMonitor) : State := { s with errors := x }

/-- Replace the `processing` block. -/
def State.setProcessing (s : State) (x : Processing) : State := { s with processing := x }

/-- Replace the `resetAwaiting` block. -/
def State.setResetAwaiting (s : State) (x : Bool) : State := { s with resetAwaiting := x }

/-- Replace the `pending` block. -/
def State.setPending (s : State) (x : List Instr) : State := { s with pending := x }

/-- The device time (R189). -/
def State.now (s : State) : Time := s.errors.now

/-- The tracker of a machine (R81). -/
def State.tracker (s : State) (u : UnitId) : Tracker := s.trackers.get u

/-- Replace the tracker of a machine. -/
def State.setTracker (s : State) (u : UnitId) (t : Tracker) : State :=
  s.setTrackers (upd s.trackers u t)

/-- The converter record of a converter (R117). -/
def State.conv (s : State) (c : ConvId) : ConvRecord := s.convs.get c

/-- Replace the converter record of a converter. -/
def State.setConv (s : State) (c : ConvId) (r : ConvRecord) : State :=
  s.setConvs (upd s.convs c r)

/-- The unit record of a machine: none while ABSENT (R1). -/
def State.unit (s : State) (u : UnitId) : Option UnitRecord := s.table.units.get u

/-- Machine numbers count from 1. -/
def unitNumber (u : UnitId) : Nat := u.val + 1

/-- Converter numbers count from 1. -/
def convNumber (c : ConvId) : Nat := c.val + 1

/-- Group numbers count from 1. -/
def groupNumber (g : GroupId) : Nat := g.val + 1

/-- The station of a converter: 9 or 10 (R132). -/
def convStation (c : ConvId) : Nat := c.val + 9

/-- The machine a number names. -/
def unitOf (n : Nat) : Option UnitId := if h : 1 ≤ n ∧ n ≤ 8 then some ⟨n - 1, by omega⟩ else none

/-- The converter a number names. -/
def convOf (n : Nat) : Option ConvId := if h : 1 ≤ n ∧ n ≤ 2 then some ⟨n - 1, by omega⟩ else none

/-- The group a number names. -/
def groupOf (n : Nat) : Option GroupId := if h : 1 ≤ n ∧ n ≤ 4 then some ⟨n - 1, by omega⟩ else none

/-- The classification entry a number names. -/
def classOf (n : Nat) : Option ClassId :=
  if h : 1 ≤ n ∧ n ≤ 16 then some ⟨n - 1, by omega⟩ else none

/-- The machines in ascending index. -/
def allUnits : List UnitId := [0, 1, 2, 3, 4, 5, 6, 7]

/-- The converters in ascending number. -/
def allConvs : List ConvId := [0, 1]

/-- The groups in ascending number. -/
def allGroups : List GroupId := [0, 1, 2, 3]

/-- Add one to a counter that saturates at 65535 (R184). -/
def satInc (n : Nat) : Nat := if n < Config.counterMax then n + 1 else n

/-- Clamp a power to a range. -/
def clampInt (lo hi x : Int) : Int := if x < lo then lo else if hi < x then hi else x

/-- Table of a value for every place. -/
def tableOf {α : Type} (n : Nat) (x : α) : Vector α n := Vector.replicate n x

/-- Apply a function to every tracker. -/
def mapUnits {α β : Type} (f : α → β) (v : Vector α 8) : Vector β 8 :=
  #v[f (v.get 0), f (v.get 1), f (v.get 2), f (v.get 3), f (v.get 4), f (v.get 5), f (v.get 6),
     f (v.get 7)]

/-- A table of one value computed for each machine. -/
def unitTable {β : Type} (f : UnitId → β) : Vector β 8 :=
  #v[f 0, f 1, f 2, f 3, f 4, f 5, f 6, f 7]

/-- The value of a class. -/
def perClass {α : Type} (p : PerClass α) : Severity → α
  | .advisory => p.advisory
  | .minor => p.minor
  | .major => p.major

/-- Replace the value of a class. -/
def setClass {α : Type} (p : PerClass α) (c : Severity) (x : α) : PerClass α :=
  match c with
  | .advisory => { p with advisory := x }
  | .minor => { p with minor := x }
  | .major => { p with major := x }

/-- The place of an error kind in the monitor's tables; its number less one (R183). -/
def kindIndex : ErrorKind → Fin 18
  | .uFrameCheck => 0 | .dFrameCheck => 1 | .frameKindUnknown => 2 | .uOwnOverflow => 3
  | .forwardLoss => 4 | .pollMiss => 5 | .stationLost => 6 | .transitionTimeout => 7
  | .converterFault => 8 | .reportMismatch => 9 | .targetClamped => 10 | .orderRefused => 11
  | .headStale => 12 | .orderStale => 13 | .tableWriteRefused => 14 | .unitTrip => 15
  | .estop => 16 | .deviation => 17

/-- The place of the miss count of a station 1 to 15; station numbers outside have none. -/
def stationIndex (a : Nat) : Option (Fin 15) :=
  if h : 1 ≤ a ∧ a ≤ 15 then some ⟨a - 1, by omega⟩ else none

/-- The miss count of a station (R141); 0 for an address that is no station. -/
def State.missCount (s : State) (a : Nat) : Nat :=
  match stationIndex a with
  | some i => s.line.misses.get i
  | none => 0

/-- Set the miss count of a station. -/
def State.setMiss (s : State) (a n : Nat) : State :=
  match stationIndex a with
  | some i => s.setLine { s.line with misses := upd s.line.misses i n }
  | none => s

/-- Run an effect unless a device reset is in processing, when nothing is taken (R154, R179). -/
def State.whenRunning (s : State) (effect : State → State) : State :=
  match s.processing with
  | .deviceReset => s
  | _ => effect s

end Sys2Proof.Machine
end

