-- ==== Sys2Proof/Machine/Flags.lean ====
section
/-! DEFINITION. Derived flags and modes: the effective authority, the STATUS flags, the class flags as
bits, the tests of which stations are tracked and which machines are held. -/
namespace Sys2Proof.Machine

/-- The effective authority (R19): ESTOP while the latch is set; otherwise LOCAL while the local/remote
line is asserted or the setting is LOCAL; otherwise REMOTE. -/
def State.authority (s : State) : Authority :=
  if s.target.estopLatch then .estop
  else if s.inputs.localLevel then .localControl
  else match s.target.setting with
    | .localControl => .localControl
    | .remote => .remote

/-- Whether the part directs the plant. -/
def State.isRemote (s : State) : Bool := s.authority == .remote

/-- The "unconfigured" flag of STATUS: every unit record is ABSENT (R1). -/
def State.unconfigured (s : State) : Bool := allUnits.all (fun u => (s.unit u).isNone)

/-- A flag as a bit of a flag byte. -/
def flagBit (b : Bool) (weight : Nat) : Nat := if b then weight else 0

/-- The flag byte of a STATUS frame (section 11.2). -/
def State.statusFlags (s : State) : Byte :=
  byteOf (flagBit s.target.staleOrder 1 + flagBit s.table.headStale 2 + flagBit s.target.clamped 4
    + flagBit s.target.holdFlag 8 + flagBit s.unconfigured 16)

/-- The class flags as a byte (section 11.2). -/
def State.classFlagByte (s : State) : Byte :=
  byteOf (flagBit s.errors.classFlags.advisory 1 + flagBit s.errors.classFlags.minor 2
    + flagBit s.errors.classFlags.major 4)

/-- A LEVEL-sensed trip line that is asserted holds its machine faulted (R97). -/
def State.held (s : State) (u : UnitId) : Bool :=
  s.settings.senses.get u == .level && s.inputs.tripLevel.get u

/-- Stations 1 to 8 are tracked while their unit record is PRESENT, 9 and 10 while the converter is
fitted, 11 to 15 never (R132). -/
def State.tracked (s : State) (a : Nat) : Bool :=
  match unitOf a with
  | some u => (s.unit u).isSome
  | none => allConvs.any (fun c => convStation c == a && (s.conv c).state != .absent)

/-- A management request is answered BUSY: an engine or line reset is in processing or a DEVICE_RESET
awaits its reset (R171, test 1). -/
def State.busy (s : State) : Bool :=
  s.resetAwaiting || s.processing == .engineReset || s.line.activity == .resetting

end Sys2Proof.Machine
end

