-- ==== Sys2Proof/Machine/Line.lean ====
section
/-! DEFINITION. The unit line's queues and its choice of what to send (R133 to R136, R149). -/
namespace Sys2Proof.Machine

/-- The station an order goes to (R134). -/
def Order.station : Order → Nat
  | .unit u _ => unitNumber u
  | .conv c _ => convStation c

/-- The frame kind of an order (section 11.2). -/
def Order.kind : Order → FrameKind
  | .unit _ .startGen => .startGen
  | .unit _ (.startPump _) => .startPump
  | .unit _ .changeover => .changeover
  | .unit _ .stop => .stop
  | .unit _ (.setpoint _) => .setpoint
  | .conv _ (.attach _) => .attach
  | .conv _ .detach => .detach

/-- The argument of an order: a converter number, a setpoint value or a machine number (R134). -/
def Order.argument : Order → Option Nat
  | .unit _ (.startPump c) => some (convNumber c)
  | .unit _ (.setpoint v) => some v
  | .conv _ (.attach u) => some (unitNumber u)
  | _ => none

/-- The payload of an order's frame: SETPOINT takes two bytes, the other arguments one (section 11.2). -/
def Order.payload (o : Order) : List Byte :=
  match o.kind, o.argument with
  | .setpoint, some v => be16 v
  | _, some v => [byteOf v]
  | _, none => []

/-- The frame of an order, from the station address as it stands (R168). -/
def State.orderFrame (s : State) (o : Order) : Frame :=
  mkFrame o.station s.settings.stationAddr o.kind o.payload

/-- The POLL frame for a station (R137). -/
def State.pollFrame (s : State) (a : Nat) : Frame :=
  mkFrame a s.settings.stationAddr .poll []

/-- Start the poll of the next address; in STEP mode it takes the step credit (R144). -/
def State.startPoll (s : State) : State :=
  s.setLine { s.line with
    activity := .sending (.poll s.line.nextAddr true) (s.pollFrame s.line.nextAddr)
    stepCredit := if s.line.scanMode = .step then false else s.line.stepCredit }

/-- Step 3 of R133 with the pause of R149: a RUNNING scan pauses under PROTECT when the forward-up queue
is full, and otherwise polls, in STEP mode only with the credit held. -/
def State.choosePoll (s : State) : State :=
  if s.line.scan ≠ .running then s
  else if s.line.protection = .protect ∧ Config.forwardQueueSize ≤ s.port.forwardUp.length then
    s.setLine { s.line with scan := .paused }
  else if s.line.scanMode = .step ∧ s.line.stepCredit = false then s
  else s.startPoll

/-- The choice of the free line (R133): the oldest order, else the oldest forwarded frame, else a poll.
A line that is not free chooses nothing. -/
def State.lineChoose (s : State) : State :=
  if s.line.activity ≠ .idle then s
  else match s.line.orders with
    | q :: rest =>
      s.setLine { s.line with
        orders := rest, activity := .sending (.order q.order) (s.orderFrame q.order) }
    | [] => match s.line.forwardDown with
      | f :: rest =>
        s.setLine { s.line with forwardDown := rest, activity := .sending .forwarded f }
      | [] => s.choosePoll

/-- Put an order in a queue: in the place of the station's pending order, which keeps its queued time,
or at the tail (R134). -/
def insertOrder (now : Time) (o : Order) : List QueuedOrder → List QueuedOrder
  | [] => [⟨o, now⟩]
  | q :: rest =>
    if q.order.station = o.station then ⟨o, q.queuedAt⟩ :: rest else q :: insertOrder now o rest

/-- Hand an order to the unit line (R134); a free line chooses at once (R133). -/
def State.placeOrder (s : State) (o : Order) : State :=
  (s.setLine { s.line with orders := insertOrder s.now o s.line.orders }).lineChoose

/-- The orders that leaving REMOTE removes: START_GEN, START_PUMP, CHANGEOVER, ATTACH, SETPOINT (R25). -/
def Order.removedOnLeavingRemote : Order → Bool
  | .unit _ .stop => false
  | .conv _ .detach => false
  | _ => true

/-- A PAUSED scan resumes when a frame leaves the forward-up queue, and a free line chooses (R149). -/
def State.resumeScan (s : State) : State :=
  if s.line.scan = .paused then (s.setLine { s.line with scan := .running }).lineChoose else s

/-- The address polled or waited for, if a poll is in flight. -/
def State.pollInFlight (s : State) : Option Nat :=
  match s.line.activity with
  | .sending (.poll a _) _ => some a
  | .window a _ _ _ => some a
  | _ => none

end Sys2Proof.Machine
end

