-- ==== Sys2Proof/Machine/Monitor.lean ====
section
/-! DEFINITION. The error monitor and the dispatch port's transmitter and queues: detections, ALARM
notices, the own queue and the two forward queues (R136, R150, R163 to R165, R183 to R188). -/
namespace Sys2Proof.Machine

/-- A detection without a sub-cause. -/
def detection (k : ErrorKind) (station : Nat) : Detection := ⟨k, station, .none⟩

/-- The severity of an error kind as it stands (R185). -/
def State.severityOf (s : State) (k : ErrorKind) : Severity := s.errors.severity.get (kindIndex k)

/-- The counter of an error kind (R184). -/
def State.counter (s : State) (k : ErrorKind) : Nat := s.errors.counters.get (kindIndex k)

/-- The detected flag of an error kind (R183). -/
def State.detectedFlag (s : State) (k : ErrorKind) : Bool := s.errors.detected.get (kindIndex k)

/-- Steps 1 to 4 of R183: the detected flag, the counters, the class flag, and the capture of a first
MAJOR detection (R188). -/
def State.note (s : State) (d : Detection) : State :=
  let e := s.errors
  let i := kindIndex d.kind
  let sev := s.severityOf d.kind
  s.setErrors { e with
    detected := upd e.detected i true
    counters := upd e.counters i (satInc (e.counters.get i))
    orderSource :=
      if d.kind = .orderRefused ∧ d.sub = .orderSource then satInc e.orderSource else e.orderSource
    classFlags := setClass e.classFlags sev true
    capture := if sev = .major ∧ e.capture = none then some ⟨d, e.now⟩ else e.capture }

/-- Step 5 of R183 with R187: the detection changes its class flag from clear to set, its class is
enabled and the notice address is not 0. -/
def State.raisesNotice (s : State) (d : Detection) : Bool :=
  let sev := s.severityOf d.kind
  !perClass s.errors.classFlags sev && perClass s.errors.notice.enable sev
    && s.errors.notice.addr != 0

/-- The code of a class (section 11.2). -/
def severityCode : Severity → Nat
  | .advisory => 0
  | .minor => 1
  | .major => 2

/-- The code of a sub-cause (section 11.2). -/
def subCode : SubCause → Nat
  | .none => 0
  | .orderSource => 1

/-- The number of an error kind (R183). -/
def kindNumber (k : ErrorKind) : Nat := (kindIndex k).val + 1

/-- The ALARM frame of a detection (R187, section 11.2). -/
def State.alarmFrame (s : State) (d : Detection) : Frame :=
  let sev := s.severityOf d.kind
  mkFrame s.errors.notice.addr s.settings.stationAddr .alarm
    ([byteOf (severityCode sev), byteOf (perClass s.errors.notice.code sev),
      byteOf (kindNumber d.kind), byteOf (subCode d.sub), byteOf d.station] ++ be32 s.now)

/-- The choice of the free transmitter: the oldest own frame, else the oldest forwarded frame, whose
departure resumes a PAUSED scan (R165, R149). -/
def State.txChoose (s : State) : State :=
  match s.port.tx with
  | some _ => s
  | none => match s.port.own with
    | x :: rest => s.setPort { s.port with own := rest, tx := some x }
    | [] => match s.port.forwardUp with
      | f :: rest =>
        (s.setPort { s.port with forwardUp := rest, tx := some ⟨f, false⟩ }).resumeScan
      | [] => s

/-- The own queue has no place left (R164). -/
def State.ownFull (s : State) : Bool := Config.ownQueueSize ≤ s.port.own.length

/-- A frame joins the tail of the own queue, and a free transmitter chooses (R164, R165). -/
def State.joinOwn (s : State) (x : OwnFrame) : State :=
  (s.setPort { s.port with own := s.port.own ++ [x] }).txChoose

/-- The detection that a full own queue makes (R164). -/
def ownOverflow : Detection := detection .uOwnOverflow 0

/-- Record a detection and judge its notice; an ALARM dropped by a full own queue is a detection of its
own (R183, R187). The chain is cut at `depth` further detections. -/
def State.detectChain (depth : Nat) (s : State) (d : Detection) : State :=
  match depth with
  | 0 => s.note d
  | n + 1 =>
    let noted := s.note d
    if s.raisesNotice d then
      if noted.ownFull then noted.detectChain n ownOverflow
      else noted.joinOwn ⟨noted.alarmFrame d, false⟩
    else noted

/-- Record a detection (R183 to R188). Each class flag is set at most once between clears, so a chain of
dropped ALARMs ends after at most three of them (R187). -/
def State.detect (s : State) (d : Detection) : State := s.detectChain 3 d

/-- Record a detection of a kind at a station index. -/
def State.detectAt (s : State) (k : ErrorKind) (station : Nat) : State := s.detect (detection k station)

/-- Offer a frame to the own queue: it joins the tail, or it is dropped with U_OWN_OVERFLOW (R164). -/
def State.offerOwn (s : State) (f : Frame) : State :=
  if s.ownFull then s.detect ownOverflow else s.joinOwn ⟨f, false⟩

/-- Put the reply to DEVICE_RESET at the head of the own queue; in a full queue the newest frame gives
way and U_OWN_OVERFLOW is recorded (R165). -/
def State.offerResetReply (s : State) (f : Frame) : State :=
  if s.ownFull then
    (s.setPort { s.port with own := ⟨f, true⟩ :: s.port.own.dropLast }).txChoose.detect ownOverflow
  else (s.setPort { s.port with own := ⟨f, true⟩ :: s.port.own }).txChoose

/-- Change the traffic counts (R169). -/
def State.countTraffic (s : State) (change : Traffic → Traffic) : State :=
  s.setPort { s.port with traffic := change s.port.traffic }

/-- A frame joins the tail of a forward-up queue, is counted, and a free transmitter chooses. -/
def State.joinForwardUp (s : State) (waiting : List Frame) (f : Frame) : State :=
  ((s.setPort { s.port with forwardUp := waiting ++ [f] }).countTraffic
    (fun t => { t with forwardedUp := satInc t.forwardedUp })).txChoose

/-- A frame from the unit line for the dispatch network (R150, R163): a full queue drops it under PROTECT
and loses its oldest frame under OVERWRITE, and FORWARD_LOSS names the polled station either way. -/
def State.offerForwardUp (s : State) (f : Frame) : State :=
  if s.port.forwardUp.length < Config.forwardQueueSize then s.joinForwardUp s.port.forwardUp f
  else match s.line.protection with
    | .protect => s.detectAt .forwardLoss f.src.toNat
    | .overwrite =>
      (s.joinForwardUp (s.port.forwardUp.drop 1) f).detectAt .forwardLoss f.src.toNat

/-- A frame from the dispatch port for the unit line (R136): it joins the tail and a free line chooses, or
a full queue drops it with FORWARD_LOSS. -/
def State.offerForwardDown (s : State) (f : Frame) : State :=
  if s.line.forwardDown.length < Config.forwardQueueSize then
    ((s.setLine { s.line with forwardDown := s.line.forwardDown ++ [f] }).countTraffic
      (fun t => { t with forwardedDown := satInc t.forwardedDown })).lineChoose
  else s.detectAt .forwardLoss 0

end Sys2Proof.Machine
end

