-- ==== Sys2Proof/Machine/Triggers.lean ====
section
/-! DEFINITION. Solve triggers and the starts of solves: the snapshot, the restart policy, the latches and
the re-solve timer (R38 to R49, R63). -/
namespace Sys2Proof.Machine

/-- What a snapshot keeps of a tracker (R39). -/
def Tracker.snap (t : Tracker) : TrackerSnap :=
  ⟨t.state, t.runSince, t.restSince, t.pin, t.admitted, t.rptPower, t.rptValid⟩

/-- The snapshot of a solve's start event (R39). -/
def State.snapshot (s : State) : Snapshot where
  time := s.now
  tf := s.target.tf
  te := s.target.te
  head := s.table.head
  units := s.table.units
  groups := s.table.groups
  meritGen := s.table.meritGen
  meritPump := s.table.meritPump
  trackers := mapUnits Tracker.snap s.trackers
  queue := s.queue

/-- The start event of a full solve: snapshot, H_ref (R42), the load-pending latch cleared (R48), the
re-solve timer started (R43). -/
def State.startFull (s : State) : State :=
  s.setSolver { s.solver with
    phase := .full s.snapshot
    loadPending := false
    headRef := s.table.head
    lastFullStart := some s.now
    resolveNext :=
      if s.settings.resolvePeriod = 0 then none else some (s.now + s.settings.resolvePeriod) }

/-- The start event of a load-only solve, which clears the load-pending latch (R48). -/
def State.startLoad (s : State) : State :=
  s.setSolver { s.solver with phase := .load s.snapshot, loadPending := false }

/-- Discard a solve in flight; only a full solve is counted (R38, R62). -/
def State.discardSolve (s : State) : State :=
  match s.solver.phase with
  | .idle => s
  | .full _ =>
    s.setSolver { s.solver with phase := .idle, discarded := satInc s.solver.discarded }
  | .load _ => s.setSolver { s.solver with phase := .idle }

/-- Sources of full triggers (section 3.2). -/
inductive TriggerSource where
  | target | availability | pin | head | period | manual | authority
deriving DecidableEq, Repr

/-- The enable of a source; TARGET, MANUAL and AUTHORITY are always enabled (R45). -/
def State.enabled (s : State) : TriggerSource → Bool
  | .availability => s.settings.enAvailability
  | .pin => s.settings.enPin
  | .head => s.settings.enHead
  | .period => s.settings.enPeriod
  | .target => true
  | .manual => true
  | .authority => true

/-- A full trigger that reaches the solver (R46, R47; R63 during engine reset processing). -/
def State.takeFullTrigger (s : State) : State :=
  match s.processing with
  | .engineReset => s.setSolver { s.solver with fullPending := true }
  | _ => match s.solver.phase with
    | .idle => s.startFull
    | _ => match s.settings.policy with
      | .latch => s.setSolver { s.solver with fullPending := true }
      | .restart => s.discardSolve.startFull

/-- Hand a full trigger to the solver: it is discarded outside REMOTE and while its source is disabled
(R45). -/
def State.fullTrigger (s : State) (src : TriggerSource) : State :=
  if s.isRemote && s.enabled src then s.takeFullTrigger else s

/-- Hand a load-only trigger to the solver (R45, R48; R63 during engine reset processing). -/
def State.loadTrigger (s : State) : State :=
  if s.isRemote then
    match s.processing with
    | .engineReset => s.setSolver { s.solver with loadPending := true }
    | _ => match s.solver.phase with
      | .idle => s.startLoad
      | .full _ => s
      | .load _ => s.setSolver { s.solver with loadPending := true }
  else s

/-- Hand the same full trigger a number of times. -/
def State.fullTriggers (src : TriggerSource) : Nat → State → State
  | 0, s => s
  | n + 1, s => State.fullTriggers src n (s.fullTrigger src)

/-- Steps 1, 2 and 4 of R49, also taken at the end of engine reset processing (R63). -/
def State.actOnLatches (s : State) : State :=
  if s.solver.fullPending then
    (s.setSolver { s.solver with fullPending := false, loadPending := false }).startFull
  else if s.solver.loadPending then s.startLoad
  else s.setSolver { s.solver with phase := .idle }

/-- What follows a completed solve (R49). `absorbed` is step 3's case: a full solve whose snapshot T_e
differs from the present T_e. -/
def State.chooseNextSolve (s : State) (absorbed : Bool) : State :=
  if s.solver.fullPending || s.solver.loadPending then s.actOnLatches
  else if absorbed then s.startLoad
  else s.setSolver { s.solver with phase := .idle }

/-- A new head is handed to the solver, which fires HEAD beyond the deadband (R42). -/
def State.handHead (s : State) : State :=
  if s.settings.headDeadband < ((s.table.head : Int) - s.solver.headRef).natAbs then
    s.fullTrigger .head
  else s

end Sys2Proof.Machine
end

