-- ==== Sys2Proof/Machine/Tracking.lean ====
section
/-! DEFINITION. The trackers: changes of state with their hand-offs, reports, deadlines, trips, loss of a
station, fault clearing, pins (chapter 5), and the converter changes they call for (R123, R124). -/
namespace Sys2Proof.Machine

/-! ## Changes of a tracker's state -/

/-- The transitional states (R84). -/
def TState.transitional : TState → Bool
  | .genStart => true
  | .pumpSpin => true
  | .pumpPrime => true
  | .changeover => true
  | .stopping => true
  | _ => false

/-- The steady states (R84). -/
def TState.steady : TState → Bool
  | .gen => true
  | .pump => true
  | _ => false

/-- The states whose entry or leaving is an AVAILABILITY trigger (R40): all but the transitional ones. -/
def TState.listed (t : TState) : Bool := !t.transitional

/-- The time of a machine's record for a transitional state (R89). For an ABSENT record R89 gives
STOPPING 1800 s; no other transitional state is entered with an ABSENT record. -/
def transitTime (r : Option UnitRecord) (st : TState) : Nat :=
  match r with
  | none => Config.absentStopTime
  | some r => match st with
    | .genStart => r.genStartTime
    | .pumpSpin => r.spinTime
    | .pumpPrime => r.primeTime
    | .changeover => r.changeoverTime
    | _ => r.stopTime

/-- The pin time of a state entered: min_run, min_rest, 0 with an ABSENT record, none elsewhere (R103). -/
def pinTime (r : Option UnitRecord) (st : TState) : Option Nat :=
  match st with
  | .gen => some (r.elim 0 (·.minRun))
  | .pump => some (r.elim 0 (·.minRun))
  | .idle => some (r.elim 0 (·.minRest))
  | _ => none

/-- The pin state at an entry with a given pin time (R103). -/
def entryPin : Option Nat → PinState
  | none => .noPin
  | some 0 => .served
  | some (_ + 1) => .pinned

/-- A tracker after a change of state at device time `now`: entry time, deadline (R89), stop origin,
granted converter, fault fields, pin fields (R103), last-sent setpoint and validity (R81, R82, R85). -/
def Tracker.enter (t : Tracker) (now : Time) (r : Option UnitRecord) (st : TState)
    (granted : Option ConvId) (cause : FaultCause) : Tracker :=
  { t with
    state := st
    entryTime := now
    deadline := if st.transitional then some (now + transitTime r st) else none
    stopOrigin := if st = .stopping then some t.state else none
    granted := granted
    faultCause := cause
    faultState := if st = .faulted then some t.state else none
    rptValid := if st = .unknown ∨ st = .lost then false else t.rptValid
    runSince := if st.steady then some now else none
    restSince := if st = .idle then some now else none
    pin := entryPin (pinTime r st)
    pinEnd := (pinTime r st).map (now + ·)
    lastSent := if t.state.steady then none else t.lastSent }

/-- A start queue entry that a machine leaving a tracker state loses: a START entry on leaving IDLE, a
CHANGEOVER entry on leaving PUMP (R85, R109). -/
def Entry.lostOnLeaving (e : Entry) (u : UnitId) (old : TState) : Bool :=
  e.unit == u &&
    match old with
    | .idle => e.kind != .changeover
    | .pump => e.kind == .changeover
    | _ => false

/-- Change a tracker's state with its own fields and its start queue entry, firing no trigger (R85). -/
def State.moveTracker (s : State) (u : UnitId) (st : TState) (granted : Option ConvId)
    (cause : FaultCause) : State :=
  let t := s.tracker u
  (s.setTracker u (t.enter s.now (s.unit u) st granted cause)).setQueue
    (s.queue.filter (fun e => !e.lostOnLeaving u t.state))

/-- Change a tracker's state and hand its triggers to the solver: AVAILABILITY by R40, and PIN when the
entry finds its pin served (R41, R85). -/
def State.changeTracker (s : State) (u : UnitId) (st : TState) (granted : Option ConvId := none)
    (cause : FaultCause := .noCause) : State :=
  let moved := s.moveTracker u st granted cause
  let told :=
    if (s.tracker u).state.listed || st.listed then moved.fullTrigger .availability else moved
  if (moved.tracker u).pin = .served then told.fullTrigger .pin else told

/-! ## Converter changes the trackers call for -/

/-- The states that hold a deadline (R117). -/
def ConvState.timed : ConvState → Bool
  | .attaching _ => true
  | .detaching _ => true
  | _ => false

/-- Change a converter record's state: entry time, deadline by the attach timeout as it stands (R125),
fault cause, validity (R117, R118). -/
def State.changeConv (s : State) (c : ConvId) (st : ConvState) (cause : ConvCause := .noCause) :
    State :=
  let r := s.conv c
  s.setConv c { r with
    state := st
    entryTime := s.now
    deadline := if st.timed then some (s.now + s.settings.attachTimeout) else none
    cause := cause
    rptValid := if st = .unknown ∨ st = .lost then false else r.rptValid }

/-- The machine a converter in ATTACHING or DRIVING is spinning up (R117). -/
def ConvState.spinning : ConvState → Option UnitId
  | .attaching u => some u
  | .driving u => some u
  | _ => none

/-- Queue DETACH to a converter in ATTACHING or DRIVING and move it to DETACHING (R123, R124). -/
def State.detachConv (s : State) (c : ConvId) : State :=
  match (s.conv c).state.spinning with
  | some u => (s.placeOrder (.conv c .detach)).changeConv c (.detaching u)
  | none => s

/-- Detach the converter granted to a tracker that leaves PUMP_SPIN (R124). -/
def State.detachGranted (s : State) (t : Tracker) : State :=
  if t.state = .pumpSpin then
    match t.granted with
    | some c => s.detachConv c
    | none => s
  else s

/-- Queue STOP to a machine's station (R98). -/
def State.queueStop (s : State) (u : UnitId) : State := s.placeOrder (.unit u .stop)

/-- Queue STOP and move the tracker to STOPPING (R22, R126, R128, R130). -/
def State.stopUnit (s : State) (u : UnitId) : State := (s.queueStop u).changeTracker u .stopping

/-! ## Faults -/

/-- Fault a machine (R92, R94, R96): FAULTED with its cause and the state left, STOP queued, a granted
converter detached, the detection recorded. -/
def State.faultUnit (s : State) (u : UnitId) (cause : FaultCause) (kind : ErrorKind) : State :=
  let t := s.tracker u
  ((((s.changeTracker u .faulted none cause).queueStop u).detachGranted t).detectAt kind
    (unitNumber u))

/-- A trip line's assertion event at a tracker (R96). -/
def State.tripUnit (s : State) (u : UnitId) : State :=
  if (s.tracker u).state = .faulted then s.detectAt .unitTrip (unitNumber u)
  else s.faultUnit u .tripLine .unitTrip

/-! ## Reports -/

/-- A unit report's fields (R82). -/
structure UnitReport where
  mode : UnitMode
  ready : Bool
  power : Int
deriving DecidableEq, Repr

/-- Record a report in the tracker, in every state (R82). -/
def State.recordReport (s : State) (u : UnitId) (r : UnitReport) : State :=
  s.setTracker u { s.tracker u with
    rptMode := r.mode, rptReady := r.ready, rptPower := r.power, rptTime := s.now, rptValid := true }

/-- The re-learn mapping (R86). -/
def UnitReport.relearn (r : UnitReport) : TState :=
  match r.mode with
  | .atRest => if r.ready then .idle else .notReady
  | .runningGen => .gen
  | .runningPump => .pump
  | .tripped => .faulted
  | _ => .observed

/-- What a tracker's present state makes of a report (R86 to R93). -/
inductive Verdict where
  | keep
  | enter (st : TState)
  | release
  | mismatch
deriving DecidableEq, Repr

/-- The reports a stop origin still accepts in STOPPING (R91). -/
def stopAccepts (origin : Option TState) (m : UnitMode) : Bool :=
  match origin, m with
  | some .gen, .runningGen => true
  | some .pump, .runningPump => true
  | some .genStart, .genSeq => true
  | some .genStart, .runningGen => true
  | some .pumpSpin, .pumpSeqSpin => true
  | some .pumpPrime, .synchronized => true
  | some .pumpPrime, .priming => true
  | some .pumpPrime, .runningPump => true
  | some .changeover, .runningPump => true
  | some .changeover, .changeoverSeq => true
  | some .changeover, .runningGen => true
  | _, _ => false

/-- The rule of a tracker's present state for a report other than TRIPPED (R86 to R91, R95). -/
def judgeReport (t : Tracker) (r : UnitReport) : Verdict :=
  match t.state with
  | .faulted => .keep
  | .unknown => .enter r.relearn
  | .lost => .enter r.relearn
  | .observed => if r.relearn = .observed then .keep else .enter r.relearn
  | .idle =>
    if r.mode = .atRest then (if r.ready then .keep else .enter .notReady) else .mismatch
  | .notReady =>
    if r.mode = .atRest then (if r.ready then .enter .idle else .keep) else .mismatch
  | .gen => if r.mode = .runningGen then .keep else .mismatch
  | .pump => if r.mode = .runningPump then .keep else .mismatch
  | .genStart => match r.mode with
    | .atRest => .keep
    | .genSeq => .keep
    | .runningGen => .enter .gen
    | _ => .mismatch
  | .pumpSpin => match r.mode with
    | .atRest => .keep
    | .pumpSeqSpin => .keep
    | .synchronized => .release
    | _ => .mismatch
  | .pumpPrime => match r.mode with
    | .synchronized => .keep
    | .priming => .keep
    | .runningPump => .enter .pump
    | _ => .mismatch
  | .changeover => match r.mode with
    | .runningPump => .keep
    | .changeoverSeq => .keep
    | .runningGen => .enter .gen
    | _ => .mismatch
  | .stopping => match r.mode with
    | .atRest => .enter (if r.ready then .idle else .notReady)
    | .stopSeq => .keep
    | m => if stopAccepts t.stopOrigin m then .keep else .mismatch

/-- The states that re-learn (R86). -/
def TState.relearns : TState → Bool
  | .unknown => true
  | .lost => true
  | .observed => true
  | _ => false

/-- A mismatch (R93): the detection, a granted converter detached, the re-learned state adopted. -/
def State.mismatchUnit (s : State) (u : UnitId) (r : UnitReport) : State :=
  let t := s.tracker u
  ((s.detectAt .reportMismatch (unitNumber u)).detachGranted t).changeTracker u r.relearn

/-- A report applied by the rule of the tracker's present state (R82). A LEVEL trip line that holds the
machine turns a re-learn or an adopted state into a fault (R97). -/
def State.applyReport (s : State) (u : UnitId) (r : UnitReport) : State :=
  let t := s.tracker u
  if t.state = .faulted then s
  else if r.mode = .tripped then
    if t.state.relearns && s.held u then s.faultUnit u .tripLine .unitTrip
    else s.faultUnit u .unitTrip .unitTrip
  else match judgeReport t r with
    | .keep => s
    | .enter st =>
      if t.state.relearns && s.held u then s.faultUnit u .tripLine .unitTrip
      else s.changeTracker u st
    | .release => (s.detachGranted t).changeTracker u .pumpPrime
    | .mismatch =>
      if s.held u then s.faultUnit u .tripLine .unitTrip else s.mismatchUnit u r

/-- A unit report reaches its tracker (R82). -/
def State.takeReport (s : State) (u : UnitId) (r : UnitReport) : State :=
  (s.recordReport u r).applyReport u r

/-- The measured plant power (R83). -/
def State.plantPower (s : State) : Int :=
  allUnits.foldl (fun acc u =>
    acc + (if (s.tracker u).rptValid then (s.tracker u).rptPower else 0)) 0

/-! ## Deadlines, pins, loss, clearing -/

/-- A timer whose expiry time has come. -/
def dueAt (expiry : Option Time) (now : Time) : Bool :=
  match expiry with
  | some t => t ≤ now
  | none => false

/-- A transitional deadline expires (R92). -/
def State.expireTransition (s : State) (u : UnitId) : State :=
  s.faultUnit u .transitionTimeout .transitionTimeout

/-- A pin ends (R104). -/
def State.endPin (s : State) (u : UnitId) : State :=
  (s.setTracker u { s.tracker u with pin := .served }).fullTrigger .pin

/-- The loss of a unit station (R101); a tracker already LOST is not moved again. -/
def State.loseUnit (s : State) (u : UnitId) : State :=
  let t := s.tracker u
  if t.state = .lost then s
  else ((s.detachGranted t).changeTracker u .lost).detectAt .stationLost (unitNumber u)

/-- A unit record written over a PRESENT one acts on a pin in state PINNED when its pin time changed
(R105). -/
def State.repin (s : State) (u : UnitId) (old new : UnitRecord) : State :=
  let t := s.tracker u
  let stamp := if t.state = .idle then t.restSince else t.runSince
  let before := pinTime (some old) t.state
  let after := pinTime (some new) t.state
  if t.pin = .pinned ∧ before ≠ after then
    match stamp, after with
    | some since, some time =>
      if since + time ≤ s.now then
        ((s.setTracker u { t with pinEnd := some (since + time) })).endPin u
      else s.setTracker u { t with pinEnd := some (since + time) }
    | _, _ => s
  else s

end Sys2Proof.Machine
end

