-- ==== Sys2Proof/Machine/Starts.lean ====
section
/-! DEFINITION. The start queue's admission walk and the converter arbiter (chapter 6). -/
namespace Sys2Proof.Machine

/-! ## The admission walk -/

/-- The tracker states that hold back their waterway group (R112). -/
def TState.holdsGroup : TState → Bool
  | .genStart => true
  | .pumpSpin => true
  | .pumpPrime => true
  | .changeover => true
  | .observed => true
  | _ => false

/-- A machine is of a group: its record is PRESENT and names it (R112). -/
def State.inGroup (s : State) (u : UnitId) (g : GroupId) : Bool :=
  (s.unit u).any (fun r => r.group == g)

/-- The lowest-numbered other machine that holds back a machine's group while its interlock is SET
(R112, test 2). -/
def State.interlockHolder (s : State) (u : UnitId) : Option UnitId :=
  match s.unit u with
  | none => none
  | some r =>
    if (s.table.groups.get r.group).interlock then
      allUnits.find? (fun v => v != u && s.inGroup v r.group && (s.tracker v).state.holdsGroup)
    else none

/-- A record's converter reach holds a converter (R1). -/
def UnitRecord.reaches (r : UnitRecord) (c : ConvId) : Bool :=
  match c with
  | 0 => r.reach1
  | 1 => r.reach2

/-- The lowest-numbered FREE converter in a machine's reach (R112, test 3; R114). -/
def State.freeConv (s : State) (u : UnitId) : Option ConvId :=
  match s.unit u with
  | none => none
  | some r => allConvs.find? (fun c => r.reaches c && (s.conv c).state == .free)

/-- What a walk makes of an entry (R111, R112). -/
inductive Judgement where
  | start
  | pass (reason : HoldReason) (blocking : Option UnitId)
deriving DecidableEq, Repr

/-- Judge an entry (R112); the walk itself makes test 1. -/
def State.judgeEntry (s : State) (e : Entry) : Judgement :=
  match s.interlockHolder e.unit with
  | some v => .pass .interlock (some v)
  | none =>
    if e.kind = .startPump ∧ s.freeConv e.unit = none then .pass .noConverter none else .start

/-- Judge entries from the oldest up to the first eligible one; the entries passed over take their hold
and blocking machine (R111). -/
def State.walkScan (s : State) : List Entry → List Entry × Option Entry
  | [] => ([], none)
  | e :: rest => match s.judgeEntry e with
    | .start => (e :: rest, some e)
    | .pass reason blocking =>
      let (rest', found) := s.walkScan rest
      ({ e with reason := reason, blocking := blocking } :: rest', found)

/-- Remove a machine's start queue entry, if it has one. -/
def State.withdrawEntry (s : State) (u : UnitId) : State :=
  s.setQueue (s.queue.filter (fun e => e.unit != u))

/-- Grant the converter of a pump start: ATTACH queued, record to ATTACHING (R114). -/
def State.grant (s : State) (u : UnitId) (c : ConvId) : State :=
  (s.placeOrder (.conv c (.attach u))).changeConv c (.attaching u)

/-- Start an eligible entry (R113, R114). The AVAILABILITY trigger of the machine leaving IDLE or PUMP is
handed over after the walk (log entry 8). -/
def State.startEntry (s : State) (e : Entry) : State :=
  let taken := s.withdrawEntry e.unit
  match e.kind with
  | .startGen =>
    (taken.placeOrder (.unit e.unit .startGen)).moveTracker e.unit .genStart none .noCause
  | .changeover =>
    (taken.placeOrder (.unit e.unit .changeover)).moveTracker e.unit .changeover none .noCause
  | .startPump => match s.freeConv e.unit with
    | some c => (taken.grant e.unit c).moveTracker e.unit .pumpSpin (some c) .noCause
    | none => s

/-- Start eligible entries, each time from the oldest that remains, for at most a number of starts; the
second part counts the starts (R111). -/
def walkLoop : Nat → State → State × Nat
  | 0, s => (s, 0)
  | n + 1, s =>
    let (q, found) := s.walkScan s.queue
    match found with
    | none => (s.setQueue q, 0)
    | some e =>
      let (s', k) := walkLoop n ((s.setQueue q).startEntry e)
      (s', k + 1)

/-- One admission walk with its count of starts (R110 to R112); nothing is admitted outside REMOTE. -/
def State.admissionWalk (s : State) : State × Nat :=
  if s.isRemote then walkLoop (s.queue.length + 1) s else (s, 0)

/-- One admission walk with the AVAILABILITY triggers of its starts (R111). -/
def State.runWalk (s : State) : State :=
  let (s', k) := s.admissionWalk
  State.fullTriggers .availability k s'

/-- The walk events of R110 between the state an event finds and the state it makes: a tracker left a
transitional state, a converter record entered FREE, the authority entered REMOTE. -/
def walkEvent (before after : State) : Bool :=
  allUnits.any (fun u =>
      (before.tracker u).state.transitional
        && (after.tracker u).state != (before.tracker u).state)
    || allConvs.any (fun c =>
      (after.conv c).state == .free && (before.conv c).state != .free)
    || (!before.isRemote && after.isRemote)

/-- Run the walk of an event after its other effects, once however many walk events it holds (R110). -/
def State.walkAfter (before after : State) : State :=
  if walkEvent before after then after.runWalk else after

/-! ## Converter reports and deadlines -/

/-- A converter report's fields (R118). -/
structure ConvReport where
  mode : ConvMode
  unit : Nat
deriving DecidableEq, Repr

/-- Record a converter report, in every state (R118). -/
def State.recordConvReport (s : State) (c : ConvId) (r : ConvReport) : State :=
  s.setConv c { s.conv c with
    rptMode := r.mode, rptUnit := r.unit, rptTime := s.now, rptValid := true }

/-- Entry of a converter record to FAULTED (R126): the cause, CONVERTER_FAULT, and the machine it was
spinning up stopped. -/
def State.faultConv (s : State) (c : ConvId) (cause : ConvCause) : State :=
  let faulted := (s.changeConv c .faulted cause).detectAt .converterFault (convStation c)
  match (s.conv c).state.spinning with
  | some u => faulted.stopUnit u
  | none => faulted

/-- The attach completes: START_PUMP in REMOTE (R120), the start broken off outside it (R130). -/
def State.completeAttach (s : State) (c : ConvId) (u : UnitId) : State :=
  if s.isRemote then (s.changeConv c (.driving u)).placeOrder (.unit u (.startPump c))
  else (s.detachConv c).stopUnit u

/-- A converter taken up by a machine without an order of the part (R119, R122). -/
def State.mismatchConv (s : State) (c : ConvId) (v : UnitId) : State :=
  (s.changeConv c (.observed v)).detectAt .reportMismatch (convStation c)

/-- A report of IDLE applied by the record's state (R119 to R122). -/
def State.convIdle (s : State) (c : ConvId) : State :=
  match (s.conv c).state with
  | .unknown => s.changeConv c .free
  | .lost => s.changeConv c .free
  | .observed _ => s.changeConv c .free
  | .detaching _ => s.changeConv c .free
  | .driving _ => s.faultConv c .dropped
  | .free => s
  | .attaching _ => s
  | .absent => s
  | .faulted => s

/-- A report of ATTACHED or DRIVING with attached unit `v` applied by the record's state (R119 to R122).
In OBSERVED only the unit field changes (log entry 13). -/
def State.convAttached (s : State) (c : ConvId) (v : UnitId) : State :=
  match (s.conv c).state with
  | .unknown => s.changeConv c (.observed v)
  | .lost => s.changeConv c (.observed v)
  | .free => s.mismatchConv c v
  | .observed _ => s.setConv c { s.conv c with state := .observed v }
  | .attaching u => if v = u then s.completeAttach c u else s.faultConv c .wrongUnit
  | .driving u => if v = u then s else s.faultConv c .wrongUnit
  | .detaching u => if v = u then s else s.mismatchConv c v
  | .absent => s
  | .faulted => s

/-- A report of FAULT applied by the record's state (R118, R126). -/
def State.convFault (s : State) (c : ConvId) : State :=
  match (s.conv c).state with
  | .absent => s
  | .faulted => s
  | _ => s.faultConv c .reported

/-- A converter report reaches its record (R118). -/
def State.takeConvReport (s : State) (c : ConvId) (r : ConvReport) : State :=
  let recorded := s.recordConvReport c r
  match r.mode with
  | .idle => recorded.convIdle c
  | .fault => recorded.convFault c
  | .attached => match unitOf r.unit with
    | some v => recorded.convAttached c v
    | none => recorded
  | .driving => match unitOf r.unit with
    | some v => recorded.convAttached c v
    | none => recorded

/-- The attach or detach deadline of a converter expires (R125). -/
def State.expireConv (s : State) (c : ConvId) : State :=
  match (s.conv c).state with
  | .attaching _ => s.faultConv c .attachTimeout
  | .detaching _ => s.faultConv c .detachTimeout
  | _ => s

/-- The loss of a converter station (R128). -/
def State.loseConv (s : State) (c : ConvId) : State :=
  match (s.conv c).state with
  | .absent => s
  | .lost => s
  | st =>
    let stopped := match st.spinning with
      | some u => s.stopUnit u
      | none => s
    (stopped.changeConv c .lost).detectAt .stationLost (convStation c)

/-- A station is reported lost to its owner (R141, step 3). -/
def State.loseStation (s : State) (a : Nat) : State :=
  match unitOf a with
  | some u => s.loseUnit u
  | none => allConvs.foldl (fun acc c => if convStation c = a then acc.loseConv c else acc) s

end Sys2Proof.Machine
end

