-- ==== Sys2Proof/Machine/Operands.lean ====
section
/-! DEFINITION. The operand forms: the payloads of the frames the part takes (R191, section 11.2) and the
records of management WRITEs (section 11.2), each read from bytes and checked whole. `none` is a
malformed payload or a BAD_VALUE record. -/
namespace Sys2Proof.Machine

/-- The value an enumeration code names: its position in the list of the values (R190). -/
def ofCode {α : Type} (values : List α) (code : Byte) : Option α := values[code.toNat]?

/-- A set-or-clear byte: 0 clear, 1 set (section 11.2). -/
def ofFlag (b : Byte) : Option Bool := ofCode [false, true] b

/-- Keep a value that passes a check. -/
def keepIf {α : Type} (ok : Bool) (x : α) : Option α := if ok then some x else none

/-! ## Frame payloads -/

/-- TARGET: target, signed; ramp rate 0 to 9999. -/
def targetFields : List Byte → Option (Int × Nat)
  | [t1, t0, r1, r0] => if nat16 r1 r0 ≤ 9999 then some (int16 t1 t0, nat16 r1 r0) else none
  | _ => none

/-- HOLD: 0 off, 1 on. -/
def holdField : List Byte → Option Bool
  | [b] => ofFlag b
  | _ => none

/-- ADMIT: machine 1 to 8; 0 WITHDRAWN, 1 ADMITTED. -/
def admitFields : List Byte → Option (UnitId × Bool)
  | [m, b] => match unitOf m.toNat, ofFlag b with
    | some u, some a => some (u, a)
    | _, _ => none
  | _ => none

/-- HEAD: upper and lower level, each 0 to 30000 (R12). -/
def headFields : List Byte → Option (Nat × Nat)
  | [u1, u0, l1, l0] =>
    if nat16 u1 u0 ≤ 30000 ∧ nat16 l1 l0 ≤ 30000 then some (nat16 u1 u0, nat16 l1 l0) else none
  | _ => none

/-- The machine states of a unit report, in the order of R82. -/
def unitModes : List UnitMode :=
  [.atRest, .genSeq, .runningGen, .pumpSeqSpin, .synchronized, .priming, .runningPump,
   .changeoverSeq, .stopSeq, .tripped]

/-- UNIT_REPORT: machine state, ready, power −6000 to +6000 (R82). -/
def unitReportFields : List Byte → Option UnitReport
  | [m, r, p1, p0] => match ofCode unitModes m, ofFlag r with
    | some mode, some ready =>
      if -6000 ≤ int16 p1 p0 ∧ int16 p1 p0 ≤ 6000 then some ⟨mode, ready, int16 p1 p0⟩ else none
    | _, _ => none
  | _ => none

/-- The states of a converter report (section 11.2). -/
def convModes : List ConvMode := [.idle, .attached, .driving, .fault]

/-- The pairings of state and attached unit (R118). -/
def convPairing (m : ConvMode) (unit : Nat) : Bool :=
  match m with
  | .idle => unit == 0
  | .fault => unit ≤ 8
  | .attached => 1 ≤ unit && unit ≤ 8
  | .driving => 1 ≤ unit && unit ≤ 8

/-- CONVERTER_REPORT: state and attached unit (R118). -/
def convReportFields : List Byte → Option ConvReport
  | [m, u] => match ofCode convModes m with
    | some mode => if convPairing mode u.toNat then some ⟨mode, u.toNat⟩ else none
    | none => none
  | _ => none

/-! ## UNIT records -/

/-- Breakpoints of six bytes each: h, plo, phi (R2). -/
def readPoints : List Byte → List Breakpoint
  | h1 :: h0 :: l1 :: l0 :: p1 :: p0 :: rest =>
    ⟨nat16 h1 h0, nat16 l1 l0, nat16 p1 p0⟩ :: readPoints rest
  | _ => []

/-- Heads rise strictly (R2). -/
def headsRise : List Breakpoint → Bool
  | a :: b :: rest => a.h < b.h && headsRise (b :: rest)
  | _ => true

/-- One breakpoint's ranges, with plo = phi for a FIXED machine (R2). -/
def Breakpoint.valid (b : Breakpoint) (kind : UnitKind) : Bool :=
  b.h ≤ 20000 && b.plo ≤ b.phi && b.phi ≤ 6000 && (kind != .fixedSpeed || b.plo == b.phi)

/-- A time lies in a range. -/
def within (lo hi n : Nat) : Bool := lo ≤ n && n ≤ hi

/-- The checks of a PRESENT record (R3). -/
def UnitRecord.valid (r : UnitRecord) : Bool :=
  1 ≤ r.genMin && r.genMin ≤ r.genMax && r.genMax ≤ 6000
    && within 2 6 r.points.length && r.points.all (·.valid r.kind) && headsRise r.points
    && within 10 1800 r.genStartTime && within 10 1800 r.spinTime && within 10 1800 r.primeTime
    && within 10 1800 r.changeoverTime && within 10 1800 r.stopTime
    && r.minRun ≤ 3600 && r.minRest ≤ 3600

/-- The fields after the breakpoints: reach, five deadlines, two pin times, changeover. A reach with a bit above
bit 1 names a converter that is not there and is refused (R3; log entry 30). -/
def readUnitTail (kind : UnitKind) (group : GroupId) (genMin genMax : Nat)
    (points : List Breakpoint) : List Byte → Option UnitRecord
  | [reach, g1, g0, s1, s0, p1, p0, c1, c0, t1, t0, r1, r0, q1, q0, ch] =>
    match ofCode [Permission.permitted, .notPermitted] ch with
    | some changeover =>
      if reach.toNat < 4 then
        some ⟨kind, group, genMin, genMax, points, reach.getLsbD 0, reach.getLsbD 1,
          nat16 g1 g0, nat16 s1 s0, nat16 p1 p0, nat16 c1 c0, nat16 t1 t0, nat16 r1 r0,
          nat16 q1 q0, changeover⟩
      else none
    | none => none
  | _ => none

/-- The fields of a PRESENT record, in the order of R1's table. -/
def readUnitBody : List Byte → Option UnitRecord
  | k :: g :: a1 :: a0 :: b1 :: b0 :: count :: rest =>
    match ofCode [UnitKind.fixedSpeed, .variableSpeed] k, groupOf g.toNat with
    | some kind, some group =>
      let len := 6 * count.toNat
      readUnitTail kind group (nat16 a1 a0) (nat16 b1 b0) (readPoints (rest.take len))
        (rest.drop len)
    | _, _ => none
  | _ => none

/-- The fields behind the presence of a clearing write are a record's length (R3, R191): none at all, or the 23
bytes of R1's fields and 6 for each breakpoint that the count byte names. Nothing else of them is
examined (log entry 17). -/
def clearingLength : List Byte → Bool
  | [] => true
  | _ :: _ :: _ :: _ :: _ :: _ :: count :: rest => rest.length == 16 + 6 * count.toNat
  | _ => false

/-- A WRITE of UNIT: the presence (0 ABSENT, 1 PRESENT), then a whole record. The other fields of an ABSENT
record are not examined (R3). -/
def readUnit : List Byte → Option (Option UnitRecord)
  | p :: rest => match ofCode [false, true] p with
    | some false => keepIf (clearingLength rest) none
    | some true => match readUnitBody rest with
      | some r => if r.valid then some (some r) else none
      | none => none
    | none => none
  | [] => none

/-! ## The other records -/

/-- A WRITE of GROUP: short_circuit (0 PERMITTED, 1 NOT_PERMITTED), interlock (0 SET, 1 CLEAR) (R10). -/
def readGroup : List Byte → Option GroupRecord
  | [sc, il] => match ofCode [Permission.permitted, .notPermitted] sc, ofCode [true, false] il with
    | some p, some i => some ⟨p, i⟩
    | _, _ => none
  | _ => none

/-- Machine numbers of a list of bytes; none when one is out of range. -/
def readUnits : List Byte → Option (List UnitId)
  | [] => some []
  | b :: rest => match unitOf b.toNat, readUnits rest with
    | some u, some us => some (u :: us)
    | _, _ => none

/-- No value stands twice. -/
def distinct {α : Type} [DecidableEq α] : List α → Bool
  | [] => true
  | x :: rest => !rest.contains x && distinct rest

/-- A WRITE of a merit list: its length, then its indices (R11). -/
def readMerit : List Byte → Option (List UnitId)
  | n :: rest =>
    if n.toNat ≤ 8 ∧ rest.length = n.toNat then
      match readUnits rest with
      | some us => if distinct us then some us else none
      | none => none
    else none
  | [] => none

/-- The actions in the order of R155. -/
def actionValues : List Action := [.consume, .forward, .copy, .drop]

/-- A WRITE of CLASS: in use (0 YES, 1 NO), port, the two ranges, the kind set as a count (0 for ANY) and
codes, the action (R159). -/
def readClass : List Byte → Option ClassEntry
  | iu :: p :: dlo :: dhi :: elo :: ehi :: n :: rest =>
    match ofCode [true, false] iu, ofCode [EntryPort.u, .d, .any] p, rest.drop n.toNat with
    | some inUse, some port, [a] => match ofCode actionValues a with
      | some action =>
        let codes := (rest.take n.toNat).map (·.toNat)
        if n.toNat ≤ 8 ∧ distinct codes then
          some ⟨inUse, port, dlo.toNat, dhi.toNat, elo.toNat, ehi.toNat,
            if n.toNat = 0 then none else some codes, action⟩
        else none
      | none => none
    | _, _, _ => none
  | _ => none

/-- A WRITE of SEVERITY (R185). -/
def readSeverity : List Byte → Option Severity
  | [b] => ofCode [.advisory, .minor, .major] b
  | _ => none

/-- A WRITE of NOTICE: the address, an enable and a code for each class; the address may not be the
station address unless it is 0 (R186). -/
def readNotice (station : Nat) : List Byte → Option NoticeSettings
  | [a, e1, e2, e3, c1, c2, c3] => match ofFlag e1, ofFlag e2, ofFlag e3 with
    | some x1, some x2, some x3 =>
      if a.toNat ≤ 254 ∧ (a.toNat = 0 ∨ a.toNat ≠ station) then
        some ⟨a.toNat, ⟨x1, x2, x3⟩, ⟨c1.toNat, c2.toNat, c3.toNat⟩⟩
      else none
    | _, _, _ => none
  | _ => none

/-! ## SETTINGS -/

/-- The bytes of a single field of SETTINGS, by its mask bit (section 11.2). -/
def settingWidth (bit : Nat) : Nat :=
  if [3, 4, 5, 6, 7, 8, 9, 15, 16, 17, 18, 19].contains bit then 2 else 1

/-- The mask bits of SETTINGS in ascending order. -/
def settingBits : List Nat := List.range 31

/-- The mask of a WRITE of SETTINGS, when the record holds its four bytes. -/
def settingsMask : List Byte → Option Nat
  | b3 :: b2 :: b1 :: b0 :: _ => some (nat32 b3 b2 b1 b0)
  | _ => none

/-- The written fields as (mask bit, raw value); none when the length is wrong. -/
def readFields (mask : Nat) : List Nat → List Byte → Option (List (Nat × Nat))
  | [], [] => some []
  | [], _ :: _ => none
  | i :: rest, bytes =>
    if mask.testBit i then
      match settingWidth i, bytes with
      | 1, b :: more => (readFields mask rest more).map ((i, b.toNat) :: ·)
      | 2, b1 :: b0 :: more => (readFields mask rest more).map ((i, nat16 b1 b0) :: ·)
      | _, _ => none
    else readFields mask rest bytes

/-- A raw 16-bit value as a signed number. -/
def signed16 (raw : Nat) : Int := (BitVec.ofNat 16 raw).toInt

/-- Store one written field, by its mask bit, when its value is in range (R174). A write-once field uses
its write (R175). -/
def Settings.store (t : Settings) (bit raw : Nat) : Option Settings :=
  match bit with
  | 0 => keepIf (within 16 254 raw) { t with stationAddr := raw, stationUsed := true }
  | 1 => keepIf (within 1 2 raw) { t with fitted := raw, fittedUsed := true }
  | 2 => keepIf (raw ≤ 254) { t with dispatchAddr := raw }
  | 3 => keepIf (-30000 ≤ signed16 raw && signed16 raw ≤ 0) { t with plantMin := signed16 raw }
  | 4 => keepIf (0 ≤ signed16 raw && signed16 raw ≤ 30000) { t with plantMax := signed16 raw }
  | 5 => keepIf (within 1 10 raw) { t with rampInterval := raw }
  | 6 => keepIf (raw == 0 || within 5 600 raw) { t with orderTimeout := raw }
  | 7 => keepIf (raw ≤ 20000) { t with designHead := raw }
  | 8 => keepIf (within 1 60 raw) { t with headStaleTime := raw }
  | 9 => keepIf (raw ≤ 500) { t with headDeadband := raw }
  | 10 => if raw = 0 then some { t with policy := .restart }
          else if raw = 1 then some { t with policy := .latch } else none
  | 11 => keepIf (raw ≤ 1) { t with enAvailability := raw == 1 }
  | 12 => keepIf (raw ≤ 1) { t with enPin := raw == 1 }
  | 13 => keepIf (raw ≤ 1) { t with enHead := raw == 1 }
  | 14 => keepIf (raw ≤ 1) { t with enPeriod := raw == 1 }
  | 15 => keepIf (raw == 0 || within 10 3600 raw) { t with resolvePeriod := raw }
  | 16 => keepIf (raw ≤ 6000) { t with devThreshold := raw }
  | 17 => keepIf (within 1 60 raw) { t with statusInterval := raw }
  | 18 => keepIf (within 1 60 raw) { t with attachTimeout := raw }
  | 19 => keepIf (within 5 100 raw) { t with pollTimeout := raw }
  | 20 => keepIf (within 1 15 raw) { t with missLimit := raw }
  | 21 => (actionValues[raw]?).map (fun a => { t with defaultU := a })
  | 22 => (actionValues[raw]?).map (fun a => { t with defaultD := a })
  | n =>
    if h : 23 ≤ n ∧ n ≤ 30 then
      keepIf (raw ≤ 1)
        { t with senses := upd t.senses ⟨n - 23, by omega⟩ (if raw = 0 then .level else .edge) }
    else none

/-- Store written fields in turn. -/
def Settings.storeAll : List (Nat × Nat) → Settings → Option Settings
  | [], t => some t
  | (i, raw) :: rest, t => match t.store i raw with
    | some t' => Settings.storeAll rest t'
    | none => none

/-- The cross-field checks (R30, R168). -/
def Settings.consistent (t : Settings) : Bool :=
  t.plantMin ≤ t.plantMax && (t.dispatchAddr == 0 || t.dispatchAddr != t.stationAddr)

/-- A WRITE of SETTINGS: the record the write would leave, when it passes its checks (R174). -/
def readSettings (t : Settings) (record : List Byte) : Option Settings :=
  match settingsMask record with
  | none => none
  | some mask => match readFields mask settingBits (record.drop 4) with
    | none => none
    | some fields => match Settings.storeAll fields t with
      | some t' => if t'.consistent then some t' else none
      | none => none

/-- A write-once field is marked written a second time (R175). -/
def writesOnceAgain (t : Settings) (record : List Byte) : Bool :=
  match settingsMask record with
  | some mask => (mask.testBit 0 && t.stationUsed) || (mask.testBit 1 && t.fittedUsed)
  | none => false

/-! ## SCAN_CONFIG -/

/-- The values of a SCAN_CONFIG (R148). -/
structure ScanValues where
  startAddr : Nat
  endAddr : Nat
  mode : ScanMode
  protection : Protection
deriving DecidableEq, Repr

/-- SCAN_CONFIG: start, end, mode, protection, one byte each (R148). -/
def readScan : List Byte → Option ScanValues
  | [a, b, m, p] =>
    match ofCode [ScanMode.continuous, .single, .step] m, ofCode [Protection.protect, .overwrite] p with
    | some mode, some protection =>
      if within 1 15 a.toNat && within 1 15 b.toNat then
        some ⟨a.toNat, b.toNat, mode, protection⟩
      else none
    | _, _ => none
  | _ => none

end Sys2Proof.Machine
end

