-- ==== Sys2Proof/Machine/Commitment.lean ====
section
/-! DEFINITION. Head-corrected bands (R16 to R18) and the commitment pass (R50 to R57), computed from a
snapshot alone. -/
namespace Sys2Proof.Machine

/-! ## Bands -/

/-- A quotient to the nearest integer, halves away from zero; the divisor is positive (R16). -/
def roundDiv (num : Int) (den : Nat) : Int :=
  if 0 ≤ num then ((2 * num.natAbs + den) / (2 * den) : Nat)
  else -(((2 * num.natAbs + den) / (2 * den) : Nat) : Int)

/-- A column of breakpoints evaluated at a head (R16): points are (head, magnitude), the first head is
not above `H` unless it is the first of the list. -/
def evalColumn (H : Nat) : List (Nat × Nat) → Int
  | [] => 0
  | [(_, p)] => p
  | (h, p) :: (h', p') :: rest =>
    if H ≤ h then p
    else if H < h' then p + roundDiv (((p' : Int) - p) * ((H : Int) - h)) (h' - h)
    else evalColumn H ((h', p') :: rest)

/-- plo(H) of a record (R16). -/
def UnitRecord.plo (r : UnitRecord) (H : Nat) : Int := evalColumn H (r.points.map (fun b => (b.h, b.plo)))

/-- phi(H) of a record (R16). -/
def UnitRecord.phi (r : UnitRecord) (H : Nat) : Int := evalColumn H (r.points.map (fun b => (b.h, b.phi)))

/-- A band [lo, hi] of contribution. -/
structure Band where
  lo : Int
  hi : Int
deriving DecidableEq, Repr

/-- The band of a record in a class at a head (R17). -/
def UnitRecord.band (r : UnitRecord) (H : Nat) : Cls → Band
  | .gen => ⟨r.genMin, r.genMax⟩
  | .pump => ⟨-(r.phi H), -(r.plo H)⟩
  | .off => ⟨0, 0⟩

/-- The width of a band (R17). -/
def Band.width (b : Band) : Int := b.hi - b.lo

/-- A machine's unit record in the snapshot. -/
def Snapshot.unit (n : Snapshot) (u : UnitId) : Option UnitRecord := n.units.get u

/-- A machine's tracker in the snapshot. -/
def Snapshot.tracker (n : Snapshot) (u : UnitId) : TrackerSnap := n.trackers.get u

/-- The band of a machine in a class from the snapshot; [0, 0] with an ABSENT record (R18). -/
def Snapshot.band (n : Snapshot) (u : UnitId) (k : Cls) : Band :=
  match n.unit u with
  | some r => r.band n.head k
  | none => ⟨0, 0⟩

/-! ## Sorting the machines (R50) -/

/-- Unavailable in the snapshot (R50). -/
def Snapshot.unavailable (n : Snapshot) (u : UnitId) : Bool :=
  (n.unit u).isNone || !(n.tracker u).admitted ||
    match (n.tracker u).state with
    | .notReady => true
    | .faulted => true
    | .lost => true
    | .unknown => true
    | .observed => true
    | _ => false

/-- The class a pinned machine keeps; none for a machine that is not pinned (R50). -/
def Snapshot.pinnedClass (n : Snapshot) (u : UnitId) : Option Cls :=
  let t := n.tracker u
  match t.state with
  | .genStart => some .gen
  | .changeover => some .gen
  | .pumpSpin => some .pump
  | .pumpPrime => some .pump
  | .stopping => some .off
  | .gen => if t.pin = .pinned then some .gen else none
  | .pump => if t.pin = .pinned then some .pump else none
  | .idle => if t.pin = .pinned then some .off else none
  | _ => none

/-- Free: neither pinned nor unavailable (R50). -/
def Snapshot.isFree (n : Snapshot) (u : UnitId) : Bool :=
  (n.pinnedClass u).isNone && !n.unavailable u

/-! ## The set S and the walks (R51 to R56) -/

/-- A machine added to S with its class and basis. -/
structure Placed where
  unit : UnitId
  cls : Cls
  basis : Basis
deriving DecidableEq, Repr

/-- The pinned machines, each in its pinned class (R51). -/
def Snapshot.pinnedSet (n : Snapshot) : List Placed :=
  allUnits.filterMap (fun u => (n.pinnedClass u).map (fun k => ⟨u, k, .pinned⟩))

/-- Lo(S) (R51). -/
def Snapshot.loOf (n : Snapshot) (set : List Placed) : Int :=
  set.foldl (fun acc p => acc + (n.band p.unit p.cls).lo) 0

/-- Hi(S) (R51). -/
def Snapshot.hiOf (n : Snapshot) (set : List Placed) : Int :=
  set.foldl (fun acc p => acc + (n.band p.unit p.cls).hi) 0

/-- GEN and PUMP are opposite (R52). -/
def Cls.opposite : Cls → Cls → Bool
  | .gen, .pump => true
  | .pump, .gen => true
  | _, _ => false

/-- S holds a machine of a group in the class opposite to `k` (R52). -/
def Snapshot.groupOpposed (n : Snapshot) (set : List Placed) (g : GroupId) (k : Cls) : Bool :=
  set.any (fun p => p.cls.opposite k && (n.unit p.unit).any (fun r => r.group == g))

/-- A group permits short circuit in the snapshot (R9). -/
def Snapshot.permits (n : Snapshot) (g : GroupId) : Bool :=
  (n.groups.get g).shortCircuit == .permitted

/-- S holds a machine. -/
def inSet (set : List Placed) (u : UnitId) : Bool := set.any (fun p => p.unit == u)

/-- Eligibility of an addition in a class (R52). -/
def Snapshot.eligible (n : Snapshot) (set : List Placed) (u : UnitId) (k : Cls) : Bool :=
  n.isFree u && !inSet set u &&
    match n.unit u with
    | none => false
    | some r =>
      (!n.groupOpposed set r.group k || n.permits r.group) &&
        (k != .pump || r.reach1 || r.reach2 || (n.tracker u).state == .pump)

/-- One pass of a walk over a merit list (R53): machines whose snapshot tracker is `from_` join in class
`k` while the walk's condition holds. -/
def Snapshot.walkPass (n : Snapshot) (cond : List Placed → Bool) (from_ : TState) (k : Cls)
    (basis : Basis) : List UnitId → List Placed → List Placed
  | [], set => set
  | u :: rest, set =>
    if !cond set then set
    else if (n.tracker u).state == from_ && n.eligible set u k then
      n.walkPass cond from_ k basis rest (set ++ [(⟨u, k, basis⟩ : Placed)])
    else n.walkPass cond from_ k basis rest set

/-- A walk: a first pass over the machines steady in the class, a second over the IDLE ones (R53). -/
def Snapshot.walk (n : Snapshot) (cond : List Placed → Bool) (steadyIn : TState) (k : Cls)
    (merit : List UnitId) (set : List Placed) : List Placed :=
  n.walkPass cond .idle k .addedIdle merit (n.walkPass cond steadyIn k .addedSteady merit set)

/-- The removal step of the generate walk (R54): while Lo(S) exceeds T_f, the machine most recently added
leaves. `newestFirst` are the machines added in the pass; the second part lists those removed. -/
def Snapshot.removeOver (n : Snapshot) (pinnedSet : List Placed) :
    List Placed → List Placed × List UnitId
  | [] => ([], [])
  | p :: older =>
    if n.tf < n.loOf (pinnedSet ++ (p :: older).reverse) then
      let (kept, out) := n.removeOver pinnedSet older
      (kept, p.unit :: out)
    else (p :: older, [])

/-- A machine the short-circuit walk may take (R56). -/
def Snapshot.fitsShortCircuit (n : Snapshot) (set : List Placed) (u : UnitId) : Bool :=
  n.isFree u && !inSet set u &&
    match n.unit u with
    | none => false
    | some r =>
      let joined : List Placed := set ++ [⟨u, .gen, .addedShortCircuit⟩]
      (n.permits r.group || !n.groupOpposed set r.group .gen) &&
        n.loOf joined ≤ n.tf && n.tf ≤ n.hiOf joined

/-- The result of a commitment pass: the machines added to S in order, those removed, Lo(S) and Hi(S). -/
structure Commitment where
  added : List Placed
  removed : List UnitId
  lo : Int
  hi : Int
deriving DecidableEq, Repr

/-- The machines added to S, in order, and those removed again (R54 to R56). -/
def Snapshot.chooseMachines (n : Snapshot) : List Placed × List UnitId :=
  let base := n.pinnedSet
  if 0 < n.tf then
    let set := n.walk (fun s => n.hiOf s < n.tf) .gen .gen n.meritGen base
    let (kept, out) := n.removeOver base (set.drop base.length).reverse
    (kept.reverse, out)
  else if n.tf < 0 then
    let set := n.walk (fun s => n.tf < n.loOf s) .pump .pump n.meritPump base
    if n.hiOf set < n.tf ∧ allGroups.any n.permits then
      match n.meritGen.find? (n.fitsShortCircuit set) with
      | some u => ((set ++ [(⟨u, .gen, .addedShortCircuit⟩ : Placed)]).drop base.length, [])
      | none => (set.drop base.length, [])
    else (set.drop base.length, [])
  else ([], [])

/-- The commitment pass (R50 to R57). -/
def Snapshot.commit (n : Snapshot) : Commitment :=
  let (added, removed) := n.chooseMachines
  let set := n.pinnedSet ++ added
  ⟨added, removed, n.loOf set, n.hiOf set⟩

/-- The desired class and the basis of a machine (R57). -/
def Snapshot.desired (n : Snapshot) (c : Commitment) (u : UnitId) : Cls × Basis :=
  match n.pinnedClass u with
  | some k => (k, .pinned)
  | none =>
    if n.unavailable u then (.off, .unavailable)
    else match c.added.find? (fun p => p.unit == u) with
      | some p => (p.cls, p.basis)
      | none => if c.removed.contains u then (.off, .removed) else (.off, .notAdded)

end Sys2Proof.Machine
end

