-- ==== Sys2Proof/Machine/Loading.lean ====
section
/-! DEFINITION. The loading pass: the steady set, the residual, the share-out, the setpoints (chapter 4). -/
namespace Sys2Proof.Machine

/-- The class a steady tracker is loaded in (R66). -/
def TState.steadyClass : TState → Option Cls
  | .gen => some .gen
  | .pump => some .pump
  | _ => none

/-- A machine of the steady set with its class and band. -/
structure Loaded where
  unit : UnitId
  cls : Cls
  band : Band
deriving DecidableEq, Repr

/-- A machine's place in the steady set L (R66). `desired` is none in a load-only solve. -/
def Snapshot.loadedAs (n : Snapshot) (desired : Option (UnitId → Cls)) (u : UnitId) : Option Loaded :=
  match (n.tracker u).state.steadyClass, n.unit u with
  | some k, some r =>
    if desired.all (fun d => d u == k) then some ⟨u, k, r.band n.head k⟩ else none
  | _, _ => none

/-- The steady set L in ascending index (R66). -/
def Snapshot.steadySet (n : Snapshot) (desired : Option (UnitId → Cls)) : List Loaded :=
  allUnits.filterMap (n.loadedAs desired)

/-- What a machine outside L counts in U_t (R67). -/
def TrackerSnap.counted (t : TrackerSnap) : Int :=
  if t.valid && t.state != .unknown && t.state != .lost then t.power else 0

/-- U_t (R67). -/
def Snapshot.outsidePower (n : Snapshot) (desired : Option (UnitId → Cls)) : Int :=
  allUnits.foldl (fun acc u =>
    acc + (if (n.loadedAs desired u).isSome then 0 else (n.tracker u).counted)) 0

/-- Lo_L (R68). -/
def loOfLoaded (l : List Loaded) : Int := l.foldl (fun acc m => acc + m.band.lo) 0

/-- Hi_L (R68). -/
def hiOfLoaded (l : List Loaded) : Int := l.foldl (fun acc m => acc + m.band.hi) 0

/-- Span (R71). -/
def spanOf (l : List Loaded) : Int := hiOfLoaded l - loOfLoaded l

/-- A machine's share by floor division; 0 when Span is 0 (R71). -/
def shareOf (x span : Int) (m : Loaded) : Int :=
  if span = 0 then 0 else x * m.band.width / span

/-- The sum of the shares (R72). -/
def shareSum (x span : Int) (l : List Loaded) : Int := l.foldl (fun acc m => acc + shareOf x span m) 0

/-- Hand out contributions in ascending index: lo plus the share, and one step more for each of the first
`r` machines of nonzero width (R72, R73). -/
def handOut (x span : Int) : Nat → List Loaded → List (Loaded × Int)
  | _, [] => []
  | r, m :: rest =>
    let c := m.band.lo + shareOf x span m
    match r with
    | 0 => (m, c) :: handOut x span 0 rest
    | k + 1 =>
      if 0 < m.band.width then (m, c + 1) :: handOut x span k rest
      else (m, c) :: handOut x span (k + 1) rest

/-- The contributions of a steady set for a clamped residual (R71 to R73). -/
def contributions (l : List Loaded) (rc : Int) : List (Loaded × Int) :=
  let x := rc - loOfLoaded l
  let span := spanOf l
  handOut x span (x - shareSum x span l).toNat l

/-- The setpoint of a machine of L by its class and kind (R73). -/
def setpointOf (kind : UnitKind) (cls : Cls) (c : Int) : Option Nat :=
  match cls, kind with
  | .gen, _ => some c.toNat
  | .pump, .variableSpeed => some (-c).toNat
  | _, _ => none

/-- A setpoint the pass derives for a machine, with the steady state it was derived in. -/
structure Setpoint where
  unit : UnitId
  state : TState
  value : Nat
deriving DecidableEq, Repr

/-- The result of a loading pass: D and the setpoints in ascending index. -/
structure Loading where
  deviation : Int
  setpoints : List Setpoint
deriving DecidableEq, Repr

/-- The setpoint a contribution gives its machine, if any (R73). -/
def Snapshot.setpointFor (n : Snapshot) (mc : Loaded × Int) : Option Setpoint :=
  match n.unit mc.1.unit with
  | none => none
  | some r =>
    (setpointOf r.kind mc.1.cls mc.2).map
      (fun v => ⟨mc.1.unit, (n.tracker mc.1.unit).state, v⟩)

/-- The loading pass of a snapshot (R65 to R73). -/
def Snapshot.loading (n : Snapshot) (desired : Option (UnitId → Cls)) : Loading :=
  let l := n.steadySet desired
  let residual := n.te - n.outsidePower desired
  let rc := clampInt (loOfLoaded l) (hiOfLoaded l) residual
  ⟨residual - rc, (contributions l rc).filterMap n.setpointFor⟩

/-- Publish D and judge the deviation by the threshold as it stands (R69, R70). -/
def State.publishDeviation (s : State) (d : Int) : State :=
  let published := s.setSolver { s.solver with deviation := d }
  if s.settings.devThreshold < d.natAbs then published.detectAt .deviation 0 else published

/-- Queue a SETPOINT when the machine is still in the snapshot's steady state and the value differs from
the last-sent setpoint (R75). -/
def State.sendSetpoint (s : State) (p : Setpoint) : State :=
  let t := s.tracker p.unit
  if t.state = p.state ∧ t.lastSent ≠ some p.value then
    (s.setTracker p.unit { t with lastSent := some p.value }).placeOrder
      (.unit p.unit (.setpoint p.value))
  else s

/-- Apply a loading pass at a completion event: D, DEVIATION, then the SETPOINT orders in ascending index
for the machines not withheld (R75, R80). -/
def State.applyLoading (s : State) (l : Loading) (withheld : UnitId → Bool) : State :=
  l.setpoints.foldl (fun acc p => if withheld p.unit then acc else acc.sendSetpoint p)
    (s.publishDeviation l.deviation)

end Sys2Proof.Machine
end

