-- ==== Sys2Proof/Machine/Solve.lean ====
section
/-! DEFINITION. The completion of solves: the plan diff and what it places (R58 to R62), the completion of a
load-only solve (R80), the choice of what follows (R49). -/
namespace Sys2Proof.Machine

/-- The class of a tracker state for the plan diff; none for NONE (R84). -/
def TState.diffClass : TState → Option Cls
  | .genStart => some .gen
  | .gen => some .gen
  | .changeover => some .gen
  | .pumpSpin => some .pump
  | .pumpPrime => some .pump
  | .pump => some .pump
  | .idle => some .off
  | .stopping => some .off
  | _ => none

/-- The plan diff leaves a machine out (R58). -/
def State.leftOut (s : State) (n : Snapshot) (u : UnitId) : Bool :=
  (s.tracker u).state.diffClass != (n.tracker u).state.diffClass
    || (s.tracker u).admitted != (n.tracker u).admitted
    || (s.unit u).isSome != (n.unit u).isSome

/-- A machine's start queue entry. -/
def State.entryOf (s : State) (u : UnitId) : Option Entry := s.queue.find? (fun e => e.unit == u)

/-- The action of an entry kind (R62). -/
def EntryKind.action : EntryKind → DiffAction
  | .startGen => .startGen
  | .startPump => .startPump
  | .changeover => .changeover

/-- Place an entry (R60). -/
def State.placeEntry (s : State) (u : UnitId) (k : EntryKind) : State × DiffAction :=
  match s.entryOf u with
  | some e =>
    if e.kind = k then (s, .keep)
    else
      let w := s.withdrawEntry u
      (w.setQueue (w.queue ++ [⟨u, k, s.now, .new, none⟩]), k.action)
  | none => (s.setQueue (s.queue ++ [⟨u, k, s.now, .new, none⟩]), k.action)

/-- Withdraw the machine's entry, if any (R59). -/
def State.diffWithdraw (s : State) (u : UnitId) : State × DiffAction :=
  match s.entryOf u with
  | some _ => (s.withdrawEntry u, .withdraw)
  | none => (s, .none)

/-- STOP by the plan diff: the order, and the tracker to STOPPING without a trigger (R40, R59). -/
def State.diffStop (s : State) (u : UnitId) : State × DiffAction :=
  ((s.queueStop u).moveTracker u .stopping none .noCause, .stop)

/-- A steady machine the diff may move: free in the snapshot (R59), or withdrawn with its record PRESENT,
which R29 has the next plan diff stop (log entry 9). -/
def Snapshot.movable (n : Snapshot) (u : UnitId) : Bool :=
  n.isFree u || ((n.unit u).isSome && !(n.tracker u).admitted && (n.pinnedClass u).isNone)

/-- The action of the plan diff for a machine not left out (R59). -/
def State.diffAct (s : State) (n : Snapshot) (u : UnitId) (desired : Cls) : State × DiffAction :=
  let st := (s.tracker u).state
  match desired with
  | .off =>
    if st = .idle then s.diffWithdraw u
    else if st.steady && n.movable u then s.diffStop u
    else (s, .none)
  | .gen =>
    if st = .idle then s.placeEntry u .startGen
    else if st = .pump && n.isFree u then
      if (n.unit u).any (fun r => r.changeover == .permitted) then s.placeEntry u .changeover
      else s.diffStop u
    else if st.diffClass = some .gen then s.diffWithdraw u
    else (s, .none)
  | .pump =>
    if st = .idle then s.placeEntry u .startPump
    else if st = .gen && n.isFree u then s.diffStop u
    else if st.diffClass = some .pump then s.diffWithdraw u
    else (s, .none)

/-- The plan diff for one machine (R58, R59). -/
def State.diffUnit (s : State) (n : Snapshot) (desired : UnitId → Cls) (u : UnitId) :
    State × DiffAction :=
  if s.leftOut n u then (s, .leftOut) else s.diffAct n u (desired u)

/-- The plan diff over a list of machines, with the actions it took (R61, step 1). -/
def State.diffAll (n : Snapshot) (desired : UnitId → Cls) :
    List UnitId → State → State × List (UnitId × DiffAction)
  | [], s => (s, [])
  | u :: rest, s =>
    let (s', a) := s.diffUnit n desired u
    let (s'', acts) := State.diffAll n desired rest s'
    (s'', (u, a) :: acts)

/-- The order of the diff: the added machines in order of addition, then the rest ascending (R61). -/
def diffOrder (added : List Placed) : List UnitId :=
  added.map (·.unit) ++ allUnits.filter (fun u => !inSet added u)

/-- The action a machine had. -/
def actionOf (acts : List (UnitId × DiffAction)) (u : UnitId) : DiffAction :=
  match acts.find? (fun p => p.1 == u) with
  | some p => p.2
  | none => .none

/-- The diff added, replaced or kept an entry (R61, step 2). -/
def DiffAction.placesEntry : DiffAction → Bool
  | .startGen => true
  | .startPump => true
  | .changeover => true
  | .keep => true
  | _ => false

/-- The last plan of a completed full solve (R62). -/
def planOf (n : Snapshot) (c : Commitment) (acts : List (UnitId × DiffAction)) (now : Time) :
    LastPlan where
  completedAt := some now
  tf := n.tf
  te := n.te
  head := n.head
  lo := c.lo
  hi := c.hi
  rows := unitTable (fun u => ⟨(n.desired c u).1, (n.desired c u).2, actionOf acts u⟩)
  queue := n.queue

/-- Steps 1 to 4 of a full solve's completion, with the number of starts whose triggers wait (R61). -/
def State.applyPlan (s : State) (n : Snapshot) : State × Nat :=
  let c := n.commit
  let desired := fun u => (n.desired c u).1
  let (diffed, acts) := State.diffAll n desired (diffOrder c.added) s
  let (walked, starts) :=
    if acts.any (fun p => p.2.placesEntry) then diffed.admissionWalk else (diffed, 0)
  let withheld := fun u => actionOf acts u == .leftOut || actionOf acts u == .stop
  let loaded := walked.applyLoading (n.loading (some desired)) withheld
  (loaded.setSolver { loaded.solver with
    plan := planOf n c acts s.now, completed := satInc loaded.solver.completed }, starts)

/-- A full solve completes (R61). The walk's triggers reach the solver after it has chosen what follows
(log entry 8). -/
def State.completeFull (s : State) (n : Snapshot) : State :=
  let (applied, starts) := s.applyPlan n
  State.fullTriggers .availability starts
    (applied.chooseNextSolve (applied.target.te != n.te))

/-- A load-only solve completes (R80). -/
def State.completeLoad (s : State) (n : Snapshot) : State :=
  (s.applyLoading (n.loading none) (fun _ => false)).chooseNextSolve false

end Sys2Proof.Machine
end

