-- ==== Sys2Proof/Machine/ReadObjects.lean ====
section
/-! DEFINITION. What a READ returns, as bytes, object by object, and the content of a STATUS frame
(R7, R62, R153, R167, R172, R180, section 11.2). -/
namespace Sys2Proof.Machine

/-! ## Encodings -/

/-- The code of an enumerated value: its position in the list of the values (R190). -/
def codeOf {α : Type} [DecidableEq α] (values : List α) (x : α) : List Byte :=
  [byteOf (values.idxOf x)]

/-- A set-or-clear byte (section 11.2). -/
def flagByte (b : Bool) : List Byte := [if b then 1 else 0]

/-- A one-byte number. -/
def num8 (n : Nat) : List Byte := [byteOf n]

/-- A device time in 32 bits; past the greatest device time its bits are open (log entry 2). -/
def timeBytes (t : Time) : List Byte :=
  if t ≤ Config.timeMax then be32 t else be32 (Config.lateTimeBits t).toNat

/-- A field that may hold none: a presence mark, then the value or zeros (section 11.2). -/
def marked {α : Type} (width : Nat) (enc : α → List Byte) : Option α → List Byte
  | some x => 1 :: enc x
  | none => 0 :: List.replicate width 0

/-- A list: its count, then its items (section 11.2). -/
def counted {α : Type} (enc : α → List Byte) (l : List α) : List Byte :=
  byteOf l.length :: l.flatMap enc

/-- The tracker states in the order of R84. -/
def tStates : List TState :=
  [.unknown, .idle, .notReady, .genStart, .gen, .pumpSpin, .pumpPrime, .pump, .changeover,
   .stopping, .observed, .faulted, .lost]

/-- The states a stop origin can be, in the order of R81. -/
def stopOrigins : List TState := [.gen, .pump, .genStart, .pumpSpin, .pumpPrime, .changeover]

/-- The code of a converter state in the order of R117. -/
def convStateCode : ConvState → Nat
  | .absent => 0 | .unknown => 1 | .free => 2 | .attaching _ => 3 | .driving _ => 4
  | .detaching _ => 5 | .observed _ => 6 | .faulted => 7 | .lost => 8

/-- The machine a converter state names: the record's unit field (R117). -/
def ConvState.unitNamed : ConvState → Option UnitId
  | .attaching u => some u
  | .driving u => some u
  | .detaching u => some u
  | .observed u => some u
  | _ => none

/-! ## STATUS -/

/-- One machine's three bytes of STATUS: tracker state, last actual power or 0 (R81). -/
def Tracker.statusBytes (t : Tracker) : List Byte :=
  codeOf tStates t.state ++ beInt16 (if t.rptValid then t.rptPower else 0)

/-- The code of the effective authority (section 11.2). -/
def authorityCode : Authority → Nat
  | .remote => 0
  | .localControl => 1
  | .estop => 2

/-- The 47 bytes of a STATUS frame's content (R167, section 11.2). -/
def State.statusPayload (s : State) : List Byte :=
  be32 s.now ++ num8 (authorityCode s.authority) ++ beInt16 s.target.tf ++ beInt16 s.target.te
    ++ beInt32 s.plantPower ++ beInt32 s.solver.deviation ++ be16 s.table.head
    ++ [s.statusFlags] ++ [s.classFlagByte]
    ++ allUnits.flatMap (fun u => (s.tracker u).statusBytes)
    ++ allConvs.flatMap (fun c => num8 (convStateCode (s.conv c).state))

/-- A STATUS frame gathered now (R167). -/
def State.statusFrame (s : State) : Frame :=
  mkFrame s.settings.dispatchAddr s.settings.stationAddr .status s.statusPayload

/-! ## Records -/

/-- A breakpoint (R2). -/
def Breakpoint.bytes (b : Breakpoint) : List Byte := be16 b.h ++ be16 b.plo ++ be16 b.phi

/-- PERMITTED is 0, NOT_PERMITTED 1. -/
def Permission.bytes (p : Permission) : List Byte := codeOf [.permitted, .notPermitted] p

/-- A UNIT record; an ABSENT one has every field zero (R7). -/
def unitBytes : Option UnitRecord → List Byte
  | none => List.replicate 24 0
  | some r =>
    [1] ++ codeOf [UnitKind.fixedSpeed, .variableSpeed] r.kind ++ num8 (groupNumber r.group)
      ++ be16 r.genMin ++ be16 r.genMax ++ counted Breakpoint.bytes r.points
      ++ num8 (flagBit r.reach1 1 + flagBit r.reach2 2)
      ++ be16 r.genStartTime ++ be16 r.spinTime ++ be16 r.primeTime ++ be16 r.changeoverTime
      ++ be16 r.stopTime ++ be16 r.minRun ++ be16 r.minRest ++ r.changeover.bytes

/-- A GROUP record (R9). -/
def GroupRecord.bytes (g : GroupRecord) : List Byte :=
  g.shortCircuit.bytes ++ codeOf [true, false] g.interlock

/-- A merit list with its length (R11). -/
def meritBytes (l : List UnitId) : List Byte := counted (fun u => num8 (unitNumber u)) l

/-- An action (R155). -/
def Action.bytes (a : Action) : List Byte := codeOf actionValues a

/-- A CLASS entry (R159); ANY is a count of 0. -/
def ClassEntry.bytes (e : ClassEntry) : List Byte :=
  codeOf [true, false] e.inUse ++ codeOf [EntryPort.u, .d, .any] e.port ++ num8 e.destLo
    ++ num8 e.destHi ++ num8 e.exclLo ++ num8 e.exclHi ++ counted num8 (e.kinds.getD [])
    ++ e.action.bytes

/-- NOTICE (R186); an enable is 1 for set (log entry 15). -/
def NoticeSettings.bytes (n : NoticeSettings) : List Byte :=
  num8 n.addr ++ flagByte n.enable.advisory ++ flagByte n.enable.minor ++ flagByte n.enable.major
    ++ num8 n.code.advisory ++ num8 n.code.minor ++ num8 n.code.major

/-- A TRACKER record (R81). -/
def Tracker.bytes (t : Tracker) : List Byte :=
  codeOf tStates t.state ++ be32 t.entryTime ++ marked 4 timeBytes t.deadline
    ++ marked 1 (codeOf stopOrigins) t.stopOrigin ++ marked 1 (fun c => num8 (convNumber c)) t.granted
    ++ codeOf [FaultCause.noCause, .unitTrip, .tripLine, .transitionTimeout] t.faultCause
    ++ marked 1 (codeOf tStates) t.faultState
    ++ codeOf unitModes t.rptMode ++ flagByte t.rptReady ++ beInt16 t.rptPower ++ be32 t.rptTime
    ++ flagByte t.rptValid
    ++ marked 4 be32 t.runSince ++ marked 4 be32 t.restSince
    ++ codeOf [PinState.noPin, .pinned, .served] t.pin ++ marked 4 timeBytes t.pinEnd
    ++ marked 2 be16 t.lastSent ++ codeOf [true, false] t.admitted

/-- A CONVERTER record (R117). -/
def ConvRecord.bytes (r : ConvRecord) : List Byte :=
  num8 (convStateCode r.state) ++ marked 1 (fun u => num8 (unitNumber u)) r.state.unitNamed
    ++ be32 r.entryTime ++ marked 4 timeBytes r.deadline
    ++ codeOf [ConvCause.noCause, .reported, .attachTimeout, .detachTimeout, .wrongUnit, .dropped]
        r.cause
    ++ codeOf convModes r.rptMode ++ num8 r.rptUnit ++ be32 r.rptTime ++ flagByte r.rptValid

/-! ## QUEUE -/

/-- A start queue entry (R108). -/
def Entry.bytes (e : Entry) : List Byte :=
  num8 (unitNumber e.unit) ++ codeOf [EntryKind.startGen, .startPump, .changeover] e.kind
    ++ be32 e.enqueued ++ codeOf [HoldReason.new, .interlock, .noConverter] e.reason
    ++ marked 1 (fun u => num8 (unitNumber u)) e.blocking

/-- One machine's row of the last plan (R62). -/
def PlanRow.bytes (r : PlanRow) : List Byte :=
  codeOf [Cls.gen, .pump, .off] r.desired
    ++ codeOf [Basis.pinned, .unavailable, .addedSteady, .addedIdle, .addedShortCircuit, .removed,
        .notAdded] r.basis
    ++ codeOf [DiffAction.none, .withdraw, .stop, .startGen, .startPump, .changeover, .keep,
        .leftOut] r.action

/-- An order of the order queue (R153). -/
def QueuedOrder.bytes (q : QueuedOrder) : List Byte :=
  num8 q.order.station ++ [kindCode q.order.kind] ++ marked 2 be16 q.order.argument
    ++ be32 q.queuedAt

/-- The solver's part of QUEUE (R62). -/
def Solver.bytes (v : Solver) : List Byte :=
  num8 (match v.phase with
    | .idle => 0
    | .full _ => 1
    | .load _ => 2)
    ++ flagByte v.fullPending ++ flagByte v.loadPending ++ be16 v.headRef
    ++ marked 4 be32 v.plan.completedAt ++ beInt16 v.plan.tf ++ beInt16 v.plan.te
    ++ be16 v.plan.head ++ beInt32 v.plan.lo ++ beInt32 v.plan.hi
    ++ allUnits.flatMap (fun u => (v.plan.rows.get u).bytes)
    ++ counted Entry.bytes v.plan.queue ++ be16 v.completed ++ be16 v.discarded

/-- The unit line's part of QUEUE (R153); the stop-pending flag is 1 for set and the step credit 1 for held (log
entry 15). -/
def State.lineBytes (s : State) : List Byte :=
  let l := s.line
  counted QueuedOrder.bytes l.orders ++ num8 l.forwardDown.length
    ++ codeOf [ScanState.running, .paused, .stopped] l.scan ++ flagByte l.stopPending
    ++ flagByte l.stepCredit ++ num8 l.nextAddr ++ marked 1 num8 s.pollInFlight
    ++ l.misses.toList.flatMap num8

/-- The own queue holds STATUS frames (R164). -/
def OwnFrame.isStatus (x : OwnFrame) : Bool := x.frame.kind == kindCode .status

/-- A READ of QUEUE (R62, R108, R153, R163, R164). -/
def State.queueBytes (s : State) : List Byte :=
  s.solver.bytes ++ counted Entry.bytes s.queue ++ s.lineBytes
    ++ num8 s.port.forwardUp.length ++ num8 s.port.own.length
    ++ num8 (s.port.own.filter OwnFrame.isStatus).length

/-! ## SETTINGS and the monitor's objects -/

/-- The code of a trip line sense. -/
def Sense.bytes (x : Sense) : List Byte := codeOf [.level, .edge] x

/-- A READ of SETTINGS: the 31 fields of the mask, the use of the write-once writes, the authority
setting and the scan configuration (R174, section 11.2). -/
def State.settingsBytes (s : State) : List Byte :=
  let t := s.settings
  num8 t.stationAddr ++ num8 t.fitted ++ num8 t.dispatchAddr ++ beInt16 t.plantMin
    ++ beInt16 t.plantMax ++ be16 t.rampInterval ++ be16 t.orderTimeout ++ be16 t.designHead
    ++ be16 t.headStaleTime ++ be16 t.headDeadband
    ++ codeOf [RestartPolicy.restart, .latch] t.policy
    ++ flagByte t.enAvailability ++ flagByte t.enPin ++ flagByte t.enHead ++ flagByte t.enPeriod
    ++ be16 t.resolvePeriod ++ be16 t.devThreshold ++ be16 t.statusInterval
    ++ be16 t.attachTimeout ++ be16 t.pollTimeout ++ num8 t.missLimit ++ t.defaultU.bytes
    ++ t.defaultD.bytes ++ allUnits.flatMap (fun u => (t.senses.get u).bytes)
    ++ flagByte t.stationUsed ++ flagByte t.fittedUsed
    ++ codeOf [AuthoritySetting.remote, .localControl] s.target.setting
    ++ num8 s.line.scanStart ++ num8 s.line.scanEnd
    ++ codeOf [ScanMode.continuous, .single, .step] s.line.scanMode
    ++ codeOf [Protection.protect, .overwrite] s.line.protection

/-- A READ of COUNTERS (R184, section 11.2). -/
def State.counterBytes (s : State) : List Byte :=
  let t := s.port.traffic
  s.errors.counters.toList.flatMap be16 ++ be16 s.errors.orderSource
    ++ be16 t.validU ++ be16 t.validD ++ be16 t.forwardedUp ++ be16 t.forwardedDown
    ++ be16 t.dropped ++ be16 t.refreshed

/-- A READ of FLAGS (section 11.2). -/
def State.flagBytes (s : State) : List Byte :=
  s.errors.detected.toList.flatMap flagByte ++ [s.classFlagByte]

/-- A captured detection (section 11.2). -/
def Capture.bytes (c : Capture) : List Byte :=
  num8 (kindNumber c.detection.kind) ++ num8 (subCode c.detection.sub) ++ num8 c.detection.station
    ++ be32 c.time

/-- A READ of CAPTURE (R188). -/
def State.captureBytes (s : State) : List Byte :=
  marked 7 Capture.bytes s.errors.capture ++ be32 s.now

/-- A READ of LINE n: level, sense, flag (R182). -/
def State.lineInputBytes (s : State) (n : Nat) : Option (List Byte) :=
  match unitOf n with
  | some u =>
    some (flagByte (s.inputs.tripLevel.get u) ++ (s.settings.senses.get u).bytes
      ++ flagByte (s.inputs.tripFlag.get u))
  | none =>
    if n = 9 then
      some (flagByte s.inputs.estopLevel ++ Sense.bytes .edge ++ flagByte s.inputs.estopFlag)
    else if n = 10 then
      some (flagByte s.inputs.localLevel ++ Sense.bytes .level ++ flagByte s.inputs.localFlag)
    else none

/-- The groups with short_circuit PERMITTED, ascending (R180). -/
def State.permittingGroups (s : State) : List GroupId :=
  allGroups.filter (fun g => (s.table.groups.get g).shortCircuit == .permitted)

/-- A READ of a DESCRIPTOR record: index, kind, the fields of the kind, next index, in the order of R180's table
(section 11.2). A kind takes its position in that table, and counts and queue sizes one byte (log entry 29). -/
def State.descriptorBytes (s : State) (n : Nat) : Option (List Byte) :=
  match n with
  | 1 => some ([1, 0] ++ be16 Config.vendorCode ++ be16 Config.partCode ++ be16 Config.revision ++ [2])
  | 2 =>
    some ([2, 1] ++ num8 s.settings.stationAddr ++ be32 Config.dispatchBitRate
      ++ be32 Config.unitLineBitRate ++ num8 Config.highestLineAddress ++ num8 Config.ownQueueSize
      ++ num8 Config.forwardQueueSize ++ num8 Config.forwardQueueSize
      ++ num8 Config.orderQueueSize ++ num8 Config.classEntries ++ [3])
  | 3 =>
    some ([3, 2] ++ num8 Config.machineCount ++ num8 Config.groupCount ++ num8 s.settings.fitted
      ++ num8 Config.startQueueSize ++ [if s.permittingGroups.isEmpty then 0 else 4])
  | 4 =>
    if s.permittingGroups.isEmpty then none
    else some ([4, 3] ++ counted (fun g => num8 (groupNumber g)) s.permittingGroups ++ [0])
  | _ => none

end Sys2Proof.Machine
end

