-- ==== Sys2Proof/Machine/Target.lean ====
section
/-! DEFINITION. Target and ramp: authority transitions, the emergency stop, plant orders, the ramp and
the order-stale timer (chapter 2), and the head's age (R12 to R14). -/
namespace Sys2Proof.Machine

/-- Replace the final and the effective target. -/
def State.setTargets (s : State) (tf te : Int) : State := s.setTarget { s.target with tf := tf, te := te }

/-- Every last-sent setpoint becomes none (R25, R74). -/
def State.clearLastSent (s : State) : State :=
  s.setTrackers (mapUnits (fun t => { t with lastSent := none }) s.trackers)

/-- A solve in flight is discarded and the latches cleared (R25, R63). -/
def State.dropSolves (s : State) : State :=
  let d := s.discardSolve
  d.setSolver { d.solver with fullPending := false, loadPending := false }

/-- Leaving REMOTE (R25; the re-solve timer by R43). -/
def State.leaveRemote (s : State) : State :=
  let emptied := (s.setQueue []).dropSolves
  let stopped := emptied.setSolver { emptied.solver with resolveNext := none }
  let pruned := stopped.setLine { stopped.line with
    orders := stopped.line.orders.filter (fun q => !q.order.removedOnLeavingRemote) }
  let cleared := pruned.clearLastSent
  cleared.setTarget { cleared.target with holdFlag := false, rampNext := none }

/-- Entry to REMOTE: the bumpless transfer (R24). The walk event is taken by the caller (R110). -/
def State.enterRemote (s : State) : State :=
  let power := clampInt s.settings.plantMin s.settings.plantMax s.plantPower
  (s.setTarget { s.target with
    tf := power, te := power, rampNext := none, orderRef := s.now }).fullTrigger .authority

/-- The effects of an authority transition from the value an event found (R19). ESTOP never passes directly
to REMOTE, and its passage to LOCAL has no effect here (R23); the passage to ESTOP is `latchEstop`. -/
def State.afterAuthority (s : State) (was : Authority) : State :=
  match was, s.authority with
  | .remote, .localControl => s.leaveRemote
  | .localControl, .remote => s.enterRemote
  | _, _ => s

/-- Trackers that ESTOP stops (R22). -/
def TState.stoppedByEstop : TState → Bool
  | .gen => true
  | .pump => true
  | .genStart => true
  | .pumpSpin => true
  | .pumpPrime => true
  | .changeover => true
  | _ => false

/-- The actions of R22: STOPs in ascending index, then DETACHs, the start queue emptied, the targets 0 and
the ramp timer stopped. -/
def State.estopActions (s : State) : State :=
  let stopped := allUnits.foldl
    (fun acc u => if (acc.tracker u).state.stoppedByEstop then acc.stopUnit u else acc) s
  let detached := allConvs.foldl (fun acc c => acc.detachConv c) stopped
  let emptied := detached.setQueue []
  emptied.setTarget { emptied.target with tf := 0, te := 0, rampNext := none }

/-- The ESTOP latch sets (R21, R22), with the effects of leaving REMOTE when it does (R25). -/
def State.latchEstop (s : State) : State :=
  let latched := (s.setTarget { s.target with estopLatch := true }).estopActions
  let left := if s.authority = .remote then latched.leaveRemote else latched
  left.detectAt .estop 0

/-! ## Plant orders -/

/-- The ramp timer after a new rate or a release of the hold (R27, R28, R31). -/
def State.startRamp (s : State) : State :=
  s.setTarget { s.target with rampNext := some (s.now + s.settings.rampInterval) }

/-- Steps 1 to 4 of an accepted TARGET (R27), with the station index of a TARGET_CLAMPED (R162; log entry 27
for a broadcast). -/
def State.storeTarget (s : State) (station : Nat) (order : Int) (rate : Nat) : State :=
  let tf := clampInt s.settings.plantMin s.settings.plantMax order
  let told := if tf ≠ order then s.detectAt .targetClamped station else s
  let t := told.target
  let te := if rate = 0 ∧ t.holdFlag = false then tf else t.te
  let next :=
    if t.holdFlag ∨ rate = 0 ∨ te = tf then none
    else match t.rampNext with
      | some n => some n
      | none => some (told.now + told.settings.rampInterval)
  told.setTarget { t with
    tf := tf, te := te, rate := rate, rampNext := next, clamped := tf ≠ order
    orderRef := told.now, staleOrder := false }

/-- An accepted TARGET with its triggers (R27). -/
def State.acceptTarget (s : State) (station : Nat) (order : Int) (rate : Nat) : State :=
  let stored := s.storeTarget station order rate
  if stored.target.tf ≠ s.target.tf then stored.fullTrigger .target
  else if stored.target.te ≠ s.target.te then stored.loadTrigger
  else stored

/-- An accepted HOLD (R28). -/
def State.acceptHold (s : State) (on : Bool) : State :=
  let t := s.target
  if t.holdFlag = on then s
  else if on then
    (s.setTarget { t with holdFlag := true, rampNext := none }).loadTrigger
  else
    let released := s.setTarget { t with holdFlag := false }
    if t.te = t.tf then released.loadTrigger
    else if t.rate = 0 then (released.setTargets t.tf t.tf).loadTrigger
    else released.startRamp.loadTrigger

/-- An accepted ADMIT (R29). R29 gives no order between the withdrawal of the entry and the trigger; the model
withdraws first, so the snapshot that the trigger takes no longer holds the entry (log entry 28). -/
def State.acceptAdmit (s : State) (u : UnitId) (admitted : Bool) : State :=
  let t := s.tracker u
  if t.admitted = admitted then s
  else
    let flagged := s.setTracker u { t with admitted := admitted }
    let withdrawn := if admitted then flagged else flagged.withdrawEntry u
    withdrawn.fullTrigger .availability

/-- A plant order's judgement by source and authority (R26). The station index of its ORDER_REFUSED is the
frame's source on port D and 0 on port U, as R162 gives for frames taken through the table or a default;
for a broadcast on port D no rule gives one, and the model takes the same (log entry 27). -/
def State.judgeOrder (s : State) (station : Nat) (src : Byte) (accept : State → State) : State :=
  if s.settings.dispatchAddr = 0 ∨ src.toNat ≠ s.settings.dispatchAddr then
    s.detect ⟨.orderRefused, station, .orderSource⟩
  else if s.isRemote then accept s
  else s.detectAt .orderRefused station

/-! ## Ramp and order-stale timer -/

/-- The length of a ramp step (R32). -/
def State.rampSize (s : State) : Int := (s.target.rate : Int) * (s.settings.rampInterval : Int)

/-- T_e one step nearer to T_f (R32). -/
def rampToward (tf te size : Int) : Int :=
  if ((tf - te).natAbs : Int) ≤ size then tf else if te < tf then te + size else te - size

/-- A ramp step, with the next-step time of a timer that still runs (R31, R32). -/
def State.takeRampStep (s : State) (expiry : Time) : State :=
  let te := rampToward s.target.tf s.target.te s.rampSize
  (s.setTarget { s.target with
    te := te
    rampNext := if te = s.target.tf then none else some (expiry + s.settings.rampInterval)
    }).loadTrigger

/-- The order is stale (R34). -/
def State.orderIsStale (s : State) : Bool :=
  s.isRemote && s.settings.orderTimeout != 0 && !s.target.staleOrder
    && s.target.orderRef + s.settings.orderTimeout ≤ s.now

/-- The order goes stale (R34). -/
def State.staleOrderNow (s : State) : State :=
  (s.setTarget { s.target with tf := s.target.te, rampNext := none, staleOrder := true }).detectAt
    .orderStale 0

/-- The effects of a write of the plant limits (R30). -/
def State.applyLimits (s : State) : State :=
  let tf := clampInt s.settings.plantMin s.settings.plantMax s.target.tf
  let te := clampInt s.settings.plantMin s.settings.plantMax s.target.te
  let clampedState := s.setTarget { s.target with
    tf := tf, te := te, rampNext := if te = tf then none else s.target.rampNext }
  if tf ≠ s.target.tf then clampedState.fullTrigger .target
  else if te ≠ s.target.te then clampedState.loadTrigger
  else clampedState

/-! ## Head -/

/-- The head becomes stale (R14): the flag was clear and the head's age has reached the head stale time. -/
def State.headIsStale (s : State) : Bool :=
  !s.table.headStale && s.table.headRef + s.settings.headStaleTime ≤ s.now

/-- The stale-head flag sets and HEAD_STALE is recorded (R14). -/
def State.staleHeadNow (s : State) : State :=
  (s.setTable { s.table with headStale := true }).detectAt .headStale 0

/-- The head of a pair of levels, clamped (R12). -/
def headOf (upper lower : Nat) : Nat := (clampInt 0 20000 ((upper : Int) - lower)).toNat

/-- A valid HEAD frame is taken (R12). -/
def State.takeHead (s : State) (upper lower : Nat) : State :=
  (s.setTable { s.table with
    head := headOf upper lower, headValid := true, headStale := false, headRef := s.now }).handHead

end Sys2Proof.Machine
end

