-- ==== Sys2Proof/Machine/Resets.lean ====
section
/-! DEFINITION. The three resets (R63, R107, R131, R151, R152, R178, R179) and the poll scan's restarts and
advances (R143 to R148). -/
namespace Sys2Proof.Machine

/-! ## The poll scan -/

/-- The poll in flight no longer advances the scan (R145). -/
def LineActivity.withoutAdvance : LineActivity → LineActivity
  | .sending (.poll a _) f => .sending (.poll a false) f
  | .window a _ t e => .window a false t e
  | x => x

/-- Restart the scan at the scan start in state RUNNING, and let a free line choose (R145). -/
def State.restartScan (s : State) : State :=
  (s.setLine { s.line with
    nextAddr := s.line.scanStart, stopPending := false, stepCredit := false, scan := .running
    activity := s.line.activity.withoutAdvance }).lineChoose

/-- SCAN_STOP: at once, or after the poll in flight (R146). -/
def State.stopScan (s : State) : State :=
  if s.line.scan = .stopped then s
  else match s.pollInFlight with
    | some _ => s.setLine { s.line with stopPending := true }
    | none => s.setLine { s.line with scan := .stopped }

/-- SCAN_CONFIG: the four values stored, then the restart (R148). -/
def State.configScan (s : State) (v : ScanValues) : State :=
  (s.setLine { s.line with
    scanStart := v.startAddr, scanEnd := v.endAddr, scanMode := v.mode
    protection := v.protection }).restartScan

/-- The address after another on the line (R143). -/
def nextStation (a : Nat) : Nat := if a = 15 then 1 else a + 1

/-- The scan's advance and stop decisions at the close of a poll's window (R143, R144, R146). -/
def State.advanceScan (s : State) (addr : Nat) (advance : Bool) : State :=
  let l := s.line
  let moved :=
    if advance then
      if addr = l.scanEnd then
        { l with
          nextAddr := l.scanStart, scan := if l.scanMode = .single then .stopped else l.scan }
      else { l with nextAddr := nextStation addr }
    else l
  s.setLine (if l.stopPending then { moved with scan := .stopped, stopPending := false } else moved)

/-- The close of a reply window after its hand-offs: the scan's decisions, then the choice (R137). -/
def State.closeWindow (s : State) (addr : Nat) (advance : Bool) : State :=
  let decided := s.advanceScan addr advance
  (decided.setLine { decided.line with activity := .idle }).lineChoose

/-! ## Line reset -/

/-- A reception in progress at a reset is discarded uncounted when it ends (R151, R152). -/
def cutReception (rx : Option RxPlace) : Option RxPlace := rx.map (fun _ => .uncounted)

/-- The start of line reset processing (R151). -/
def State.beginLineReset (s : State) : State :=
  s.setLine { s.line with
    orders := [], forwardDown := [], activity := .resetting, rx := cutReception s.line.rx
    misses := Vector.replicate 15 0, nextAddr := s.line.scanStart, stopPending := false
    stepCredit := false, scan := .running }

/-- The end of line reset processing (R151). -/
def State.endLineReset (s : State) : State :=
  (s.setLine { s.line with activity := .idle }).lineChoose

/-! ## Engine reset -/

/-- A tracker at an engine reset (R107): UNKNOWN, with the admission flag and the last report's fields
kept. -/
def Tracker.engineReset (t : Tracker) (now : Time) : Tracker :=
  { Tracker.reset with
    entryTime := now, admitted := t.admitted, rptMode := t.rptMode, rptReady := t.rptReady
    rptPower := t.rptPower, rptTime := t.rptTime }

/-- A converter record at an engine reset (R131): a fitted one to UNKNOWN, an ABSENT one stays. The entry time
becomes the present time also when the state was UNKNOWN already (log entry 32). -/
def ConvRecord.engineReset (r : ConvRecord) (now : Time) : ConvRecord :=
  if r.state = .absent then { r with rptValid := false }
  else { r with
    state := .unknown, entryTime := now, deadline := none, cause := .noCause, rptValid := false }

/-- The start of engine reset processing (R178). Its changes fire no trigger and run no walk. -/
def State.beginEngineReset (s : State) : State :=
  let dropped := (s.setQueue []).dropSolves
  let solver := dropped.setSolver { dropped.solver with deviation := 0 }
  let target := solver.setTarget { solver.target with
    tf := solver.target.te, holdFlag := false, rampNext := none }
  let trackers := target.setTrackers (mapUnits (·.engineReset s.now) target.trackers)
  let convs := trackers.setConvs
    #v[(trackers.conv 0).engineReset s.now, (trackers.conv 1).engineReset s.now]
  convs.setProcessing .engineReset

/-- The end of engine reset processing: the solver acts on its latches (R63). -/
def State.endEngineReset (s : State) : State := (s.setProcessing .none).actOnLatches

/-! ## Device reset -/

/-- The inputs across a device reset: levels and the pin stand, every flag is clear (R182). -/
def Inputs.cleared (i : Inputs) : Inputs :=
  { i with tripFlag := Vector.replicate 8 false, estopFlag := false, localFlag := false }

/-- Every block at its device reset values; the lines' levels, a reception being discarded and the
model's queue of commands stand. -/
def State.deviceResetValues (s : State) : State :=
  let fresh := (State.reset.setInputs s.inputs.cleared).setPending s.pending
  fresh.setLine { fresh.line with rx := cutReception s.line.rx }

/-- The start of device reset processing (R165, R179): frames in transmission are cut, queues emptied, a
solve in flight discarded uncounted (R64). -/
def State.beginDeviceReset (s : State) : State :=
  let fresh := s.deviceResetValues.setProcessing .deviceReset
  fresh.setLine { fresh.line with activity := .resetting }

/-- A trip line's assertion event: its flag sets (R182) and its machine is faulted (R96). -/
def State.assertTrip (s : State) (u : UnitId) : State :=
  (s.setInputs { s.inputs with tripFlag := upd s.inputs.tripFlag u true }).tripUnit u

/-- The emergency-stop line's assertion event: its flag sets (R182) and ESTOP latches (R21). -/
def State.assertEstop (s : State) : State :=
  (s.setInputs { s.inputs with estopFlag := true }).latchEstop

/-- The emergency-stop line found asserted at the end of device reset processing (R21, R181). -/
def State.assertEstopHeld (s : State) : State := if s.inputs.estopLevel then s.assertEstop else s

/-- The LEVEL trip lines found asserted at the end of device reset processing, in ascending index (R97,
R181). -/
def State.assertTripsHeld (s : State) : State :=
  allUnits.foldl (fun acc u => if acc.held u then acc.assertTrip u else acc) s

/-- The local/remote line found asserted at the end of device reset processing: its flag sets (R182). -/
def State.flagLocalHeld (s : State) : State :=
  if s.inputs.localLevel then s.setInputs { s.inputs with localFlag := true } else s

/-- The assertions at the end of device reset processing (R181; their order is log entry 7). -/
def State.assertAtResetEnd (s : State) : State := s.assertEstopHeld.assertTripsHeld.flagLocalHeld

/-- The end of device reset processing (R179): reset values, the asserted lines, then the free line's
choice (R133). -/
def State.endDeviceReset (s : State) : State := s.deviceResetValues.assertAtResetEnd.lineChoose

end Sys2Proof.Machine
end

