-- ==== Sys2Proof/Machine/Management.lean ====
section
/-! DEFINITION. In-band management: requests, their judgement in the order of R171, their effects by the
owning rules, and their one reply (chapter 9). -/
namespace Sys2Proof.Machine

/-- Reasons of REFUSED (R171). -/
inductive Reason where
  | none | notAtRest | lineAsserted | inUse | notRemote
deriving DecidableEq, Repr

/-- The reply to a request (R171). -/
inductive Reply where
  | ok (object : List Byte)
  | badObject
  | badIndex
  | badValue
  | writeOnce
  | refused (reason : Reason)
  | busy
deriving DecidableEq, Repr

/-- What follows a reply: a reset that the request asked for (R178, R151, R179). -/
inductive AfterReply where
  | nothing | lineReset | engineReset | deviceReset
deriving DecidableEq, Repr

/-- The code of a reply (section 11.2). -/
def Reply.code : Reply → Nat
  | .ok _ => 0
  | .badObject => 1
  | .badIndex => 2
  | .badValue => 3
  | .writeOnce => 4
  | .refused _ => 5
  | .busy => 6

/-- The code of a reason (section 11.2). -/
def reasonCode : Reason → Nat
  | .none => 0
  | .notAtRest => 1
  | .lineAsserted => 2
  | .inUse => 3
  | .notRemote => 4

/-- The reason and the object a reply carries. -/
def Reply.tail : Reply → Nat × List Byte
  | .ok object => (0, object)
  | .refused r => (reasonCode r, [])
  | _ => (0, [])

/-- The MGMT_REPLY frame to a requester (R170, section 11.2). -/
def State.replyFrame (s : State) (dest req : Nat) (r : Reply) : Frame :=
  mkFrame dest s.settings.stationAddr .mgmtReply
    (be16 req ++ [byteOf r.code, byteOf r.tail.1] ++ r.tail.2)

/-! ## READ (R172) -/

/-- The severity of kind n as one byte (R185). -/
def State.severityBytes (s : State) (n : Nat) : Option (List Byte) :=
  if h : 1 ≤ n ∧ n ≤ 18 then
    some (num8 (severityCode (s.errors.severity.get ⟨n - 1, by omega⟩)))
  else none

/-- A READ of an indexed object: BAD_INDEX when the index names no instance. -/
def readIndexed (object : Option (List Byte)) : Reply := object.elim .badIndex .ok

/-- A CONVERTER record; an ABSENT converter does not exist (R171). -/
def State.converterBytes (s : State) (n : Nat) : Option (List Byte) :=
  match convOf n with
  | some c => if (s.conv c).state = .absent then none else some (s.conv c).bytes
  | none => none

/-- A READ (R172), by object code and index. -/
def State.readObject (s : State) (object index : Nat) : Reply :=
  match object with
  | 1 => .ok s.settingsBytes
  | 2 => readIndexed ((unitOf index).map (fun u => unitBytes (s.unit u)))
  | 3 => readIndexed ((groupOf index).map (fun g => (s.table.groups.get g).bytes))
  | 4 => .ok (meritBytes s.table.meritGen)
  | 5 => .ok (meritBytes s.table.meritPump)
  | 6 => readIndexed ((classOf index).map (fun c => (s.classes.get c).bytes))
  | 7 => readIndexed (s.severityBytes index)
  | 8 => .ok s.errors.notice.bytes
  | 9 => readIndexed ((unitOf index).map (fun u => (s.tracker u).bytes))
  | 10 => readIndexed (s.converterBytes index)
  | 11 => .ok s.queueBytes
  | 12 => .ok s.statusPayload
  | 13 => .ok s.counterBytes
  | 14 => .ok s.captureBytes
  | 15 => .ok s.flagBytes
  | 16 => readIndexed (s.lineInputBytes index)
  | 17 => readIndexed (s.descriptorBytes index)
  | _ => .badObject

/-! ## WRITE -/

/-- A WRITE refused at test 4, 5 or 6 records TABLE_WRITE_REFUSED (R171). -/
def State.refuseWrite (s : State) (station : Nat) (r : Reply) : State × Reply :=
  (s.detectAt .tableWriteRefused station, r)

/-- Store a unit record. -/
def State.storeUnit (s : State) (u : UnitId) (r : Option UnitRecord) : State :=
  s.setTable { s.table with units := upd s.table.units u r }

/-- The tracker states in which a record may be cleared (R6). -/
def TState.clearable : TState → Bool
  | .idle => true
  | .notReady => true
  | .unknown => true
  | .lost => true
  | .faulted => true
  | _ => false

/-- A clearing write (R6). R6 gives no order between the withdrawal of the entry and the trigger; the model
withdraws first, so the snapshot that the trigger takes no longer holds the entry (log entry 28). -/
def State.clearUnit (s : State) (u : UnitId) : State × Reply :=
  match s.unit u with
  | none => (s, .ok [])
  | some _ =>
    if (s.tracker u).state.clearable then
      (((((s.storeUnit u none).withdrawEntry u).setMiss (unitNumber u) 0).fullTrigger
        .availability), .ok [])
    else s.refuseWrite (unitNumber u) (.refused .inUse)

/-- A PRESENT write that passed its checks: a load (R4) or a replacement (R5, R105). -/
def State.writePresent (s : State) (u : UnitId) (r : UnitRecord) : State :=
  match s.unit u with
  | none =>
    ((s.storeUnit u (some r)).setMiss (unitNumber u) 0).fullTrigger .availability
  | some old => (s.storeUnit u (some r)).repin u old r

/-- WRITE of UNIT n (R3). -/
def State.writeUnit (s : State) (u : UnitId) (record : List Byte) : State × Reply :=
  match readUnit record with
  | none => s.refuseWrite (unitNumber u) .badValue
  | some none => s.clearUnit u
  | some (some r) => (s.writePresent u r, .ok [])

/-- WRITE of GROUP n (R10). -/
def State.writeGroup (s : State) (g : GroupId) (record : List Byte) : State × Reply :=
  match readGroup record with
  | some r => (s.setTable { s.table with groups := upd s.table.groups g r }, .ok [])
  | none => s.refuseWrite (groupNumber g) .badValue

/-- WRITE of MERIT_GEN or MERIT_PUMP (R11). -/
def State.writeMerit (s : State) (which : MeritList) (record : List Byte) : State × Reply :=
  match readMerit record, which with
  | some l, .gen => (s.setTable { s.table with meritGen := l }, .ok [])
  | some l, .pump => (s.setTable { s.table with meritPump := l }, .ok [])
  | none, _ => s.refuseWrite 0 .badValue

/-- WRITE of CLASS n (R159). -/
def State.writeClass (s : State) (c : ClassId) (record : List Byte) : State × Reply :=
  match readClass record with
  | some e => (s.setClasses (upd s.classes c e), .ok [])
  | none => s.refuseWrite (c.val + 1) .badValue

/-- WRITE of SEVERITY n (R185). -/
def State.writeSeverity (s : State) (i : Fin 18) (record : List Byte) : State × Reply :=
  match readSeverity record with
  | some v => (s.setErrors { s.errors with severity := upd s.errors.severity i v }, .ok [])
  | none => s.refuseWrite (i.val + 1) .badValue

/-- WRITE of NOTICE (R186). -/
def State.writeNotice (s : State) (record : List Byte) : State × Reply :=
  match readNotice s.settings.stationAddr record with
  | some n => (s.setErrors { s.errors with notice := n }, .ok [])
  | none => s.refuseWrite 0 .badValue

/-! ### SETTINGS: the owners' effects, in the order of the fields (log entry 10) -/

/-- Converters fitted raised from 1 to 2: converter 2 to UNKNOWN, station 10 tracked (R116, R132). -/
def State.afterFitted (s : State) (old : Settings) : State :=
  if old.fitted = 1 ∧ s.settings.fitted = 2 then (s.changeConv 1 .unknown).setMiss 10 0 else s

/-- Changed plant limits clamp the targets (R30). -/
def State.afterLimits (s : State) (old : Settings) : State :=
  if old.plantMin ≠ s.settings.plantMin ∨ old.plantMax ≠ s.settings.plantMax then s.applyLimits
  else s

/-- A changed order timeout may make the order stale at the write (R33). -/
def State.afterOrderTimeout (s : State) (old : Settings) : State :=
  if old.orderTimeout ≠ s.settings.orderTimeout ∧ s.orderIsStale then s.staleOrderNow else s

/-- A changed design head becomes H while no valid HEAD frame has been taken (R13). -/
def State.afterDesignHead (s : State) (old : Settings) : State :=
  if old.designHead ≠ s.settings.designHead ∧ s.table.headValid = false then
    (s.setTable { s.table with head := s.settings.designHead }).handHead
  else s

/-- A changed head stale time may make the head stale at the write (R14). -/
def State.afterHeadStaleTime (s : State) (old : Settings) : State :=
  if old.headStaleTime ≠ s.settings.headStaleTime ∧ s.headIsStale then s.staleHeadNow else s

/-- A write of the re-solve period (R43). -/
def State.afterResolvePeriod (s : State) (written : Bool) : State :=
  if written && s.isRemote then
    if s.settings.resolvePeriod = 0 then s.setSolver { s.solver with resolveNext := none }
    else match s.solver.lastFullStart with
      | none => s.setSolver { s.solver with resolveNext := none }
      | some started =>
        if started + s.settings.resolvePeriod ≤ s.now then
          (s.setSolver { s.solver with
            resolveNext := some (s.now + s.settings.resolvePeriod) }).fullTrigger .period
        else
          s.setSolver { s.solver with resolveNext := some (started + s.settings.resolvePeriod) }
  else s

/-- A changed status interval sets the next expiry (R166). -/
def State.afterStatusInterval (s : State) (old : Settings) : State :=
  if old.statusInterval ≠ s.settings.statusInterval then
    s.setPort { s.port with
      statusNext := max s.now (s.port.statusLast + s.settings.statusInterval) }
  else s

/-- Changed senses: EDGE to LEVEL with the line asserted is an assertion event (R181). -/
def State.afterSenses (s : State) (old : Settings) : State :=
  allUnits.foldl (fun acc u =>
    if old.senses.get u = .edge ∧ acc.settings.senses.get u = .level
        ∧ acc.inputs.tripLevel.get u then acc.assertTrip u
    else acc) s

/-- The effects of a stored WRITE of SETTINGS (R174). -/
def State.applySettings (s : State) (old : Settings) (mask : Nat) : State :=
  ((((((((s.afterFitted old).afterLimits old).afterOrderTimeout old).afterDesignHead
    old).afterHeadStaleTime old).afterResolvePeriod (mask.testBit 15)).afterStatusInterval
    old).afterSenses old)

/-- WRITE of SETTINGS (R174, R175): all written fields are stored before any owner applies its effects;
the walk of an event among them runs last. -/
def State.writeSettings (s : State) (record : List Byte) : State × Reply :=
  if writesOnceAgain s.settings record then s.refuseWrite 0 .writeOnce
  else match readSettings s.settings record with
    | none => s.refuseWrite 0 .badValue
    | some t =>
      (State.walkAfter s
        ((s.setSettings t).applySettings s.settings ((settingsMask record).getD 0)), .ok [])

/-- A WRITE by object code and index (R173); an unindexed object ignores the index. -/
def State.writeObject (s : State) (object index : Nat) (record : List Byte) : State × Reply :=
  match object with
  | 1 => s.writeSettings record
  | 2 => match unitOf index with
    | some u => s.writeUnit u record
    | none => (s, .badIndex)
  | 3 => match groupOf index with
    | some g => s.writeGroup g record
    | none => (s, .badIndex)
  | 4 => s.writeMerit .gen record
  | 5 => s.writeMerit .pump record
  | 6 => match classOf index with
    | some c => s.writeClass c record
    | none => (s, .badIndex)
  | 7 =>
    if h : 1 ≤ index ∧ index ≤ 18 then s.writeSeverity ⟨index - 1, by omega⟩ record
    else (s, .badIndex)
  | 8 => s.writeNotice record
  | _ => (s, .badObject)

/-! ## CLEAR (R176) -/

/-- CLEAR of COUNTERS (R184). -/
def State.clearCounters (s : State) : State :=
  (s.setErrors { s.errors with
    counters := Vector.replicate 18 0, orderSource := 0 }).countTraffic (fun _ => .zero)

/-- CLEAR of CAPTURE (R188). -/
def State.clearCapture (s : State) : State := s.setErrors { s.errors with capture := none }

/-- CLEAR of FLAGS (R186). -/
def State.clearFlags (s : State) : State :=
  s.setErrors { s.errors with
    detected := Vector.replicate 18 false, classFlags := ⟨false, false, false⟩ }

/-- CLEAR of LINE n for a trip line: a LEVEL line's flag stays while it is asserted (R182). -/
def State.clearTripFlag (s : State) (u : UnitId) : State :=
  if s.held u then s
  else s.setInputs { s.inputs with tripFlag := upd s.inputs.tripFlag u false }

/-- CLEAR of LINE n (R182). -/
def State.clearLineFlag (s : State) (n : Nat) : State × Reply :=
  match unitOf n with
  | some u => (s.clearTripFlag u, .ok [])
  | none =>
    if n = 9 then (s.setInputs { s.inputs with estopFlag := false }, .ok [])
    else if n = 10 then
      (if s.inputs.localLevel then s else s.setInputs { s.inputs with localFlag := false }, .ok [])
    else (s, .badIndex)

/-- A CLEAR by object code and index. -/
def State.clearObject (s : State) (object index : Nat) : State × Reply :=
  match object with
  | 13 => (s.clearCounters, .ok [])
  | 14 => (s.clearCapture, .ok [])
  | 15 => (s.clearFlags, .ok [])
  | 16 => s.clearLineFlag index
  | _ => (s, .badObject)

/-! ## ACTION (R177) -/

/-- SOLVE_NOW (R44). -/
def State.solveNow (s : State) : State × Reply :=
  if s.isRemote then (s.fullTrigger .manual, .ok []) else (s, .refused .notRemote)

/-- UNIT_FAULT_CLEAR (R100). -/
def State.clearUnitFault (s : State) (u : UnitId) : State × Reply :=
  let t := s.tracker u
  if t.state ≠ .faulted then (s, .ok [])
  else if s.held u then (s, .refused .lineAsserted)
  else if t.rptValid = false ∨ t.rptMode ≠ .atRest then (s, .refused .notAtRest)
  else (s.changeTracker u (if t.rptReady then .idle else .notReady), .ok [])

/-- CONVERTER_CLEAR (R127). -/
def State.clearConverter (s : State) (c : ConvId) : State × Reply :=
  let r := s.conv c
  if r.state ≠ .faulted then (s, .ok [])
  else if r.rptValid = true ∧ r.rptMode = .idle then
    (State.walkAfter s (s.changeConv c .free), .ok [])
  else (s, .refused .notAtRest)

/-- ESTOP_CLEAR (R23). -/
def State.clearEstop (s : State) : State × Reply :=
  if s.target.estopLatch = false then (s, .ok [])
  else if s.inputs.estopLevel then (s, .refused .lineAsserted)
  else (s.setTarget { s.target with estopLatch := false, setting := .localControl }, .ok [])

/-- AUTHORITY_SET of a stored value (R20), with the transition it makes (R19) and its walk (R110). -/
def State.setAuthority (s : State) (v : AuthoritySetting) : State :=
  State.walkAfter s
    ((s.setTarget { s.target with setting := v }).afterAuthority s.authority)

/-- SCAN_STEP (R147). -/
def State.stepScan (s : State) : State × Reply :=
  if s.line.scanMode = .step then
    if s.line.stepCredit then (s, .busy)
    else if s.line.scan = .stopped then (s, .ok [])
    else ((s.setLine { s.line with stepCredit := true }).lineChoose, .ok [])
  else (s, .ok [])

/-- An action whose request carries bytes behind its header is answered BAD_VALUE (R191), before the
owner's state is judged. -/
def whenBare (record : List Byte) (s : State) (result : State × Reply) : State × Reply :=
  if record = [] then result else (s, .badValue)

/-- An ACTION by its code, argument and record, with the reset it begins after its reply (R177). -/
def State.act (s : State) (action arg : Nat) (record : List Byte) : (State × Reply) × AfterReply :=
  match action with
  | 1 => (whenBare record s s.solveNow, .nothing)
  | 2 => match unitOf arg with
    | some u => (whenBare record s (s.clearUnitFault u), .nothing)
    | none => ((s, .badIndex), .nothing)
  | 3 => match convOf arg with
    | some c =>
      if (s.conv c).state = .absent then ((s, .badIndex), .nothing)
      else (whenBare record s (s.clearConverter c), .nothing)
    | none => ((s, .badIndex), .nothing)
  | 4 => (whenBare record s s.clearEstop, .nothing)
  | 5 => match arg with
    | 0 => (whenBare record s (s.setAuthority .remote, .ok []), .nothing)
    | 1 => (whenBare record s (s.setAuthority .localControl, .ok []), .nothing)
    | _ => ((s, .badValue), .nothing)
  | 6 => (whenBare record s (s.restartScan, .ok []), .nothing)
  | 7 => (whenBare record s (s.stopScan, .ok []), .nothing)
  | 8 => (whenBare record s s.stepScan, .nothing)
  | 9 => match readScan record with
    | some v => ((s.configScan v, .ok []), .nothing)
    | none => ((s, .badValue), .nothing)
  | 10 => (whenBare record s (s, .ok []), if record = [] then .lineReset else .nothing)
  | 11 => (whenBare record s (s, .ok []), if record = [] then .engineReset else .nothing)
  | 12 => (whenBare record s (s, .ok []), if record = [] then .deviceReset else .nothing)
  | _ => ((s, .badObject), .nothing)

/-! ## The responder (R170, R171) -/

/-- A request past test 1: its kind, object or action, index or argument, and record. The bytes behind the
header of a READ or a CLEAR are ignored (log entry 33). -/
def State.perform (s : State) (kind object index : Nat) (record : List Byte) :
    (State × Reply) × AfterReply :=
  match kind with
  | 1 => ((s, s.readObject object index), .nothing)
  | 2 => (s.writeObject object index record, .nothing)
  | 3 => (s.clearObject object index, .nothing)
  | 4 => s.act object index record
  | _ => ((s, .badObject), .nothing)

/-- Offer a reply, then begin the reset the request asked for (R151, R165, R178). -/
def State.answer (s : State) (dest req : Nat) (r : Reply) (after : AfterReply) : State :=
  let f := s.replyFrame dest req r
  match after with
  | .nothing => s.offerOwn f
  | .lineReset => (s.offerOwn f).beginLineReset
  | .engineReset => (s.offerOwn f).beginEngineReset
  | .deviceReset => (s.offerResetReply f).setResetAwaiting true

/-- The request number of a payload; 0 when it holds fewer than two bytes (R191). -/
def requestNumber : List Byte → Nat
  | n1 :: n0 :: _ => nat16 n1 n0
  | _ => 0

/-- A management request is taken, judged, executed and answered (R170, R171). A payload shorter than its
five-byte header is answered BAD_OBJECT (R191). -/
def State.manage (s : State) (src : Byte) (payload : List Byte) : State :=
  let req := requestNumber payload
  if s.busy then s.answer src.toNat req .busy .nothing
  else match payload with
    | _ :: _ :: kind :: object :: index :: record =>
      let ((done, reply), after) := s.perform kind.toNat object.toNat index.toNat record
      done.answer src.toNat req reply after
    | _ => s.answer src.toNat req .badObject .nothing

end Sys2Proof.Machine
end

