-- ==== Sys2Proof/Machine/Receive.lean ====
section
/-! DEFINITION. What becomes of receptions: the frame classifier (R155 to R162), the consumers of the frames
the part takes, the receipt on the dispatch port (R154) and in reply windows (R137 to R141). -/
namespace Sys2Proof.Machine

/-! ## Consumers -/

/-- The station index of an error in a frame: its source on port D, 0 on port U (R162, R191; log entry 27 for a
plant order that is a broadcast). -/
def errorIndex (f : Frame) : Port → Nat
  | .u => 0
  | .d => f.src.toNat

/-- A frame no block takes, or a malformed one: FRAME_KIND_UNKNOWN (R156, R162, R191). -/
def State.unknownKind (s : State) (p : Port) (f : Frame) : State :=
  s.detectAt .frameKindUnknown (errorIndex f p)

/-- A management request that is not executed, or a frame from the unit line to the part: ORDER_REFUSED
(R156, R162). -/
def State.refuseFrame (s : State) (p : Port) (f : Frame) : State :=
  s.detectAt .orderRefused (errorIndex f p)

/-- A TARGET reaches target and ramp (R26, R27, R191). -/
def State.consumeTarget (s : State) (p : Port) (f : Frame) : State :=
  match targetFields f.payload with
  | some (t, r) => s.judgeOrder (errorIndex f p) f.src (fun x => x.acceptTarget (errorIndex f p) t r)
  | none => s.unknownKind p f

/-- A HOLD reaches target and ramp (R26, R28, R191). -/
def State.consumeHold (s : State) (p : Port) (f : Frame) : State :=
  match holdField f.payload with
  | some on => s.judgeOrder (errorIndex f p) f.src (fun x => x.acceptHold on)
  | none => s.unknownKind p f

/-- An ADMIT reaches target and ramp (R26, R29, R191). -/
def State.consumeAdmit (s : State) (p : Port) (f : Frame) : State :=
  match admitFields f.payload with
  | some (u, a) => s.judgeOrder (errorIndex f p) f.src (fun x => x.acceptAdmit u a)
  | none => s.unknownKind p f

/-- A HEAD reaches the unit table (R12, R191). -/
def State.consumeHead (s : State) (p : Port) (f : Frame) : State :=
  match headFields f.payload with
  | some (upper, lower) => s.takeHead upper lower
  | none => s.unknownKind p f

/-- A frame consumed through the table, a default or a broadcast's copy reaches the owner of its kind
(R157, R162); `others` says what becomes of a kind without an owner. -/
def State.consumeOwned (s : State) (p : Port) (f : Frame) (others : State → State) : State :=
  match kindOf f.kind with
  | some .target => s.consumeTarget p f
  | some .hold => s.consumeHold p f
  | some .admission => s.consumeAdmit p f
  | some .head => s.consumeHead p f
  | _ => others s

/-- CONSUME (R162): a management request is refused, another kind is unknown. -/
def State.consumeFrame (s : State) (p : Port) (f : Frame) : State :=
  s.consumeOwned p f (fun x =>
    if f.kind = kindCode .mgmtRequest then x.refuseFrame p f else x.unknownKind p f)

/-- FORWARD (R162): to the forward queue of the other port. -/
def State.forwardFrame (s : State) (p : Port) (f : Frame) : State :=
  match p with
  | .u => s.offerForwardDown f
  | .d => s.offerForwardUp f

/-- The action of the table or a default (R162). A copy's consumed part is handled before its forwarded
part (log entry 18). -/
def State.actOn (s : State) (p : Port) (f : Frame) : Action → State
  | .consume => s.consumeFrame p f
  | .forward => s.forwardFrame p f
  | .copy => (s.consumeFrame p f).forwardFrame p f
  | .drop => s.countTraffic (fun t => { t with dropped := satInc t.dropped })

/-! ## The classifier -/

/-- An entry's port takes an arrival port (R160). -/
def EntryPort.takes : EntryPort → Port → Bool
  | .any, _ => true
  | .u, .u => true
  | .d, .d => true
  | _, _ => false

/-- An entry matches a frame (R160). -/
def ClassEntry.matchesFrame (e : ClassEntry) (p : Port) (f : Frame) : Bool :=
  e.inUse && e.port.takes p && within e.destLo e.destHi f.dest.toNat
    && !within e.exclLo e.exclHi f.dest.toNat
    && e.kinds.all (fun l => l.contains f.kind.toNat)

/-- The default action of a port (R161). -/
def State.defaultAction (s : State) : Port → Action
  | .u => s.settings.defaultU
  | .d => s.settings.defaultD

/-- Steps 4 and 5 of R155: the first entry that matches, else the default. -/
def State.tableAction (s : State) (p : Port) (f : Frame) : Action :=
  match s.classes.toList.find? (fun e => e.matchesFrame p f) with
  | some e => e.action
  | none => s.defaultAction p

/-- The unit station a report on port D comes from (R158). -/
def reportingUnit (p : Port) (f : Frame) : Option UnitId :=
  match p, kindOf f.kind with
  | .d, some .unitReport => unitOf f.src.toNat
  | _, _ => none

/-- The converter station a report on port D comes from (R158). -/
def reportingConv (p : Port) (f : Frame) : Option ConvId :=
  match p, kindOf f.kind with
  | .d, some .converterReport => allConvs.find? (fun c => convStation c == f.src.toNat)
  | _, _ => none

/-- A unit report reaches its tracker, and the walk of the event runs (R82, R110). -/
def State.consumeUnitReport (s : State) (u : UnitId) (f : Frame) : State :=
  match unitReportFields f.payload with
  | some r => State.walkAfter s (s.takeReport u r)
  | none => s.unknownKind .d f

/-- A converter report reaches its record, and the walk of the event runs (R110, R118). -/
def State.consumeConvReport (s : State) (c : ConvId) (f : Frame) : State :=
  match convReportFields f.payload with
  | some r => State.walkAfter s (s.takeConvReport c r)
  | none => s.unknownKind .d f

/-- A frame for the station address (R156). -/
def State.takeOwn (s : State) (p : Port) (f : Frame) : State :=
  match p with
  | .d => s.refuseFrame .d f
  | .u =>
    s.consumeOwned .u f (fun x =>
      if f.kind = kindCode .mgmtRequest then x.manage f.src f.payload else x.unknownKind .u f)

/-- A broadcast: the kinds the part takes are consumed, and every frame is forwarded (R157). -/
def State.takeBroadcast (s : State) (p : Port) (f : Frame) : State :=
  (s.consumeOwned p f id).forwardFrame p f

/-- A frame that is no report, by its destination (R155, steps 2 to 5). -/
def State.classifyByDest (s : State) (p : Port) (f : Frame) : State :=
  if f.dest.toNat = s.settings.stationAddr then s.takeOwn p f
  else if f.dest.toNat = Config.broadcast then s.takeBroadcast p f
  else s.actOn p f (s.tableAction p f)

/-- A port's received count (R169). -/
def Traffic.received (t : Traffic) : Port → Traffic
  | .u => { t with validU := satInc t.validU }
  | .d => { t with validD := satInc t.validD }

/-- A valid frame handed to the classifier is counted (R169) and classified (R155). -/
def State.classify (s : State) (p : Port) (f : Frame) : State :=
  let counted := s.countTraffic (fun t => t.received p)
  match reportingUnit p f, reportingConv p f with
  | some u, _ => counted.consumeUnitReport u f
  | none, some c => counted.consumeConvReport c f
  | none, none => counted.classifyByDest p f

/-! ## Receipt on the dispatch port (R154) -/

/-- A check failure on port U (R154). -/
def State.badReceptionU (s : State) : State := s.detectAt .uFrameCheck 0

/-- The end of a reception on port U, as bytes (R154, R190). -/
def State.receiveBytesU (s : State) (bytes : List Byte) : State :=
  match parseFrame bytes with
  | some f => s.classify .u f
  | none => s.badReceptionU

/-- The end of a reception on port U, as a frame; a payload past the envelope is a check failure. -/
def State.receiveFrameU (s : State) (f : Frame) : State :=
  if frameFits f then s.classify .u f else s.badReceptionU

/-- A management request arrives at the part's own address (R170): request kind, object or action, index or
argument, and the bytes behind the header. -/
def State.request (s : State) (src : Byte) (req : BitVec 16) (kind object index : Byte)
    (record : List Byte) : State :=
  s.receiveFrameU (mkFrame s.settings.stationAddr src.toNat .mgmtRequest
    (be16 req.toNat ++ [kind, object, index] ++ record))

/-! ## Receipt on the unit line (R137 to R141) -/

/-- Where a reception whose first byte arrives now falls (R137, R140, R151). One that begins during line or
device reset processing stays uncounted, also when it ends after the processing (log entry 6). -/
def State.receptionPlace (s : State) : RxPlace :=
  match s.line.activity with
  | .window _ _ _ _ => .inWindow
  | .resetting => .uncounted
  | _ => .stray

/-- The first byte of a reception arrives (R137); one in progress goes on (log entry 6). -/
def State.startReception (s : State) : State :=
  s.setLine { s.line with rx := some (s.line.rx.getD s.receptionPlace) }

/-- No reception is in progress any longer. -/
def State.endReception (s : State) : State := s.setLine { s.line with rx := none }

/-- A miss (R141): a tracked station's count, POLL_MISS, and at the limit the report to its owner with the
walk it causes (R110). -/
def State.countMiss (s : State) (a : Nat) : State :=
  if s.tracked a then
    let n := min (s.missCount a + 1) s.settings.missLimit
    let missed := (s.setMiss a n).detectAt .pollMiss a
    if n = s.settings.missLimit then State.walkAfter missed (missed.loseStation a) else missed
  else s

/-- A window closes without a valid reply: the miss, then the scan's decisions and the choice (R137). -/
def State.missWindow (s : State) (a : Nat) (advance : Bool) : State :=
  (s.countMiss a).closeWindow a advance

/-- The hand-offs of a valid reply (R139). -/
def State.handReply (s : State) (a : Nat) (f : Frame) : State :=
  let heard := if s.tracked a then s.setMiss a 0 else s
  if f.kind = kindCode .nil then heard else heard.classify .d f

/-- The end of a reception that is no valid reply: a window past its timeout closes with a miss (R137). -/
def State.afterInvalid (s : State) : State :=
  match s.line.activity with
  | .window a advance _ true => s.missWindow a advance
  | _ => s

/-- A reception that began in a reply window ends (R138). -/
def State.judgeReply (s : State) (a : Nat) (advance : Bool) (r : Option Frame) : State :=
  match r with
  | some f =>
    if frameFits f ∧ f.src.toNat = a then (s.handReply a f).closeWindow a advance
    else (s.detectAt .dFrameCheck a).afterInvalid
  | none => (s.detectAt .dFrameCheck a).afterInvalid

/-- The end of a reception on the unit line: a frame, or none when the check fails (R138, R140, R151). A
reception without a RECEPTION_START began now (log entry 6). -/
def State.receiveD (s : State) (r : Option Frame) : State :=
  let place := s.line.rx.getD s.receptionPlace
  let ended := s.endReception
  match place, s.line.activity with
  | .uncounted, _ => ended.afterInvalid
  | .inWindow, .window a advance _ _ => ended.judgeReply a advance r
  | _, _ => (ended.detectAt .dFrameCheck 0).afterInvalid

/-- The end of a reception on the unit line, except that device reset processing discards it uncounted
(R140, R152). -/
def State.lineReception (s : State) (r : Option Frame) : State :=
  match s.processing with
  | .deviceReset => s.endReception
  | _ => s.receiveD r

/-- A frame arrives whole on a port (R154). -/
def State.receiveOn (s : State) (p : Port) (f : Frame) : State :=
  match p with
  | .u => s.whenRunning (fun x => x.receiveFrameU f)
  | .d => s.lineReception (some f)

/-- A reception that began on the unit line and has lasted 90.1 ms ends as a check failure (R137). -/
def State.cutAtLimit (s : State) : State :=
  match s.line.rx with
  | some _ => s.lineReception none
  | none => s

/-- The reply timeout of an open window passes (R137, R141). -/
def State.windowTimeout (s : State) : State :=
  match s.line.activity with
  | .window a advance t _ =>
    match s.line.rx with
    | some _ => s.setLine { s.line with activity := .window a advance t true }
    | none => s.missWindow a advance
  | _ => s

/-! ## Ends of transmission -/

/-- An order or a forwarded frame has been sent (R133). -/
def State.lineSent (s : State) : State :=
  match s.line.activity with
  | .sending (.order _) _ => (s.setLine { s.line with activity := .idle }).lineChoose
  | .sending .forwarded _ => (s.setLine { s.line with activity := .idle }).lineChoose
  | _ => s

/-- A poll has been sent and its window opens (R137). -/
def State.pollSent (s : State) : State :=
  match s.line.activity with
  | .sending (.poll a advance) _ =>
    s.setLine { s.line with activity := .window a advance s.settings.pollTimeout false }
  | _ => s

/-- A frame has been sent on the dispatch port: the next is chosen, or the device reset that the frame was
the reply to begins (R165, R179). -/
def State.dispatchSent (s : State) : State :=
  match s.port.tx with
  | some x =>
    if x.resetReply then s.beginDeviceReset
    else (s.setPort { s.port with tx := none }).txChoose
  | none => s

/-! ## Timers and lines -/

/-- A waiting frame of the own queue after a fresh gathering: a STATUS frame takes the new content and
destination, and keeps the source it was made with (R166, R168). -/
def OwnFrame.refresh (x : OwnFrame) (fresh : Frame) : OwnFrame :=
  if x.isStatus then { x with frame := { fresh with src := x.frame.src } } else x

/-- The status timer expires (R166). -/
def State.statusExpiry (s : State) : State :=
  let next := s.setPort { s.port with
    statusLast := s.port.statusNext, statusNext := s.port.statusNext + s.settings.statusInterval }
  if s.settings.dispatchAddr = 0 then next
  else if s.port.own.any OwnFrame.isStatus then
    (next.setPort { next.port with
      own := next.port.own.map (·.refresh next.statusFrame)
      }).countTraffic (fun t => { t with refreshed := satInc t.refreshed })
  else next.offerOwn next.statusFrame

/-- The re-solve timer expires (R43). -/
def State.resolveExpiry (s : State) (expiry : Time) : State :=
  (s.setSolver { s.solver with
    resolveNext := some (expiry + s.settings.resolvePeriod) }).fullTrigger .period

/-- The level of a trip line (R181). -/
def State.setTripLevel (s : State) (u : UnitId) (asserted : Bool) : State :=
  s.setInputs { s.inputs with tripLevel := upd s.inputs.tripLevel u asserted }

/-- The level of the emergency-stop line (R181). -/
def State.setEstopLevel (s : State) (asserted : Bool) : State :=
  s.setInputs { s.inputs with estopLevel := asserted }

/-- The level of the local/remote line (R181). -/
def State.setLocalLevel (s : State) (asserted : Bool) : State :=
  s.setInputs { s.inputs with localLevel := asserted }

/-- The local/remote line's flag sets at an assertion (R182). -/
def State.flagLocal (s : State) (asserted : Bool) : State :=
  s.setInputs { s.inputs with localFlag := s.inputs.localFlag || asserted }

/-- The authority is derived again after the local/remote line changed, with the transition and the walk it
makes (R19, R110). -/
def State.rederive (s : State) (asserted : Bool) : State :=
  State.walkAfter s (((s.setLocalLevel asserted).flagLocal asserted).afterAuthority s.authority)

/-- A change of the local/remote line (R181); during device reset processing only its level changes. -/
def State.onLocalLine (s : State) (asserted : Bool) : State :=
  match s.processing with
  | .deviceReset => s.setLocalLevel asserted
  | _ => s.rederive asserted

/-- One second passes (R189). -/
def State.tick (s : State) : State :=
  s.setErrors { s.errors with
    now := if s.errors.now < Config.timeMax then s.errors.now + 1 else s.errors.now }

end Sys2Proof.Machine
end

