-- ==== Sys2Proof/Machine/ExecFrames.lean ====
section
/-! DEFINITION. Meanings of the commands that are frames received on either port (R154, R155; the owners
are R12 and R26 to R29). On the unit line a frame arrives as a reception (R137 to R140). -/
namespace Sys2Proof.Machine
open Host

/-- U_FRAME_CHECK (R154). -/
def execUFrameCheck (bytes : List Byte) (s : State) :
    Outcome State Fault Refusal :=
  .next (s.whenRunning (fun x => x.receiveBytesU bytes))

/-- FRAME_CLASSIFY (R155). -/
def execFrameClassify (p : Port) (dest src kind : Byte) (payload : List Byte) (s : State) :
    Outcome State Fault Refusal :=
  .next (s.receiveOn p ⟨dest, src, kind, payload⟩)

/-- TARGET (R26, R27). -/
def execTarget (p : Port) (dest src : Byte) (payload : List Byte) (s : State) :
    Outcome State Fault Refusal :=
  .next (s.receiveOn p ⟨dest, src, kindCode .target, payload⟩)

/-- HOLD (R26, R28). -/
def execHold (p : Port) (dest src : Byte) (payload : List Byte) (s : State) :
    Outcome State Fault Refusal :=
  .next (s.receiveOn p ⟨dest, src, kindCode .hold, payload⟩)

/-- ADMIT (R26, R29). -/
def execAdmission (p : Port) (dest src : Byte) (payload : List Byte) (s : State) :
    Outcome State Fault Refusal :=
  .next (s.receiveOn p ⟨dest, src, kindCode .admission, payload⟩)

/-- HEAD (R12). -/
def execHead (p : Port) (dest src : Byte) (payload : List Byte) (s : State) :
    Outcome State Fault Refusal :=
  .next (s.receiveOn p ⟨dest, src, kindCode .head, payload⟩)

end Sys2Proof.Machine
end

