-- ==== Sys2Proof/Machine/ExecInputs.lean ====
section
/-! DEFINITION. Meanings of the changes of the hardwired lines (R181). During device reset processing a line's
level changes and nothing else is taken. -/
namespace Sys2Proof.Machine
open Host

/-- TRIP_LINE_ASSERT (R96, R181): an assertion event under either sense, with the walk of the tracker it moves. -/
def execTripLineAssert (u : UnitId) (s : State) :
    Outcome State Fault Refusal :=
  .next ((s.setTripLevel u true).whenRunning (fun x => State.walkAfter x (x.assertTrip u)))

/-- TRIP_LINE_DEASSERT (R97, R181): the hold of a LEVEL line ends with its level. -/
def execTripLineDeassert (u : UnitId) (s : State) :
    Outcome State Fault Refusal :=
  .next (s.setTripLevel u false)

/-- EMERGENCY_STOP_EDGE (R21, R22, R181). -/
def execEmergencyStopEdge (s : State) :
    Outcome State Fault Refusal :=
  .next ((s.setEstopLevel true).whenRunning State.assertEstop)

/-- EMERGENCY_STOP_RELEASE (R181). -/
def execEmergencyStopRelease (s : State) :
    Outcome State Fault Refusal :=
  .next (s.setEstopLevel false)

/-- LOCAL_REMOTE_ASSERT (R19, R25, R181). -/
def execLocalRemoteAssert (s : State) :
    Outcome State Fault Refusal :=
  .next (s.onLocalLine true)

/-- LOCAL_REMOTE_DEASSERT (R19, R24, R181). -/
def execLocalRemoteDeassert (s : State) :
    Outcome State Fault Refusal :=
  .next (s.onLocalLine false)

end Sys2Proof.Machine
end

