-- ==== Sys2Proof/Machine/ExecLine.lean ====
section
/-! DEFINITION. Meanings of the unit line's receptions and of the ends of transmission on both ports
(chapter 7, R165). -/
namespace Sys2Proof.Machine
open Host

/-- UNIT_REPORT (R82, R158). -/
def execUnitReport (dest src : Byte) (payload : List Byte) (s : State) :
    Outcome State Fault Refusal :=
  .next (s.lineReception (some ⟨dest, src, kindCode .unitReport, payload⟩))

/-- CONVERTER_REPORT (R118, R158). -/
def execConverterReport (dest src : Byte) (payload : List Byte) (s : State) :
    Outcome State Fault Refusal :=
  .next (s.lineReception (some ⟨dest, src, kindCode .converterReport, payload⟩))

/-- NIL (R139). -/
def execNilReply (dest src : Byte) (payload : List Byte) (s : State) :
    Outcome State Fault Refusal :=
  .next (s.lineReception (some ⟨dest, src, kindCode .nil, payload⟩))

/-- REPLY_WINDOW_RECEPTION (R138): the bytes of a reception, whatever they hold. -/
def execReplyWindowReception (bytes : List Byte) (s : State) :
    Outcome State Fault Refusal :=
  .next (s.lineReception (parseFrame bytes))

/-- STRAY_RECEPTION (R140): the bytes of a reception, whatever they hold. -/
def execStrayReception (bytes : List Byte) (s : State) :
    Outcome State Fault Refusal :=
  .next (s.lineReception (parseFrame bytes))

/-- RECEPTION_LIMIT (R137). -/
def execReceptionLimit (s : State) :
    Outcome State Fault Refusal :=
  .next (s.cutAtLimit)

/-- RECEPTION_START (R137). -/
def execReceptionStart (s : State) :
    Outcome State Fault Refusal :=
  .next (s.startReception)

/-- REPLY_WINDOW_TIMEOUT (R137, R141). -/
def execReplyWindowTimeout (s : State) :
    Outcome State Fault Refusal :=
  .next (s.whenRunning State.windowTimeout)

/-- UNIT_LINE_TX_END (R133). -/
def execUnitLineTxEnd (s : State) :
    Outcome State Fault Refusal :=
  .next (s.whenRunning State.lineSent)

/-- POLL_TX_END (R137). -/
def execPollTxEnd (s : State) :
    Outcome State Fault Refusal :=
  .next (s.whenRunning State.pollSent)

/-- DISPATCH_TX_END (R165). -/
def execDispatchTxEnd (s : State) :
    Outcome State Fault Refusal :=
  .next (s.whenRunning State.dispatchSent)

end Sys2Proof.Machine
end

