-- ==== Sys2Proof/Machine/ExecManagement.lean ====
section
/-! DEFINITION. Meanings of the management requests: each arrives on the dispatch port at the part's station
address as a MGMT_REQUEST frame (R170, section 11.2). Request kinds: 1 READ, 2 WRITE, 3 CLEAR, 4 ACTION. -/
namespace Sys2Proof.Machine
open Host

/-- READ (R172). -/
def execRead (src : Byte) (req : BitVec 16) (object index : Byte) (s : State) :
    Outcome State Fault Refusal :=
  .next (s.whenRunning (fun x => x.request src req 1 object index []))

/-- WRITE_SETTINGS (R174). -/
def execWriteSettings (src : Byte) (req : BitVec 16) (record : List Byte) (s : State) :
    Outcome State Fault Refusal :=
  .next (s.whenRunning (fun x => x.request src req 2 1 0 record))

/-- WRITE_UNIT (R3). -/
def execWriteUnit (src : Byte) (req : BitVec 16) (index : Byte) (record : List Byte) (s : State) :
    Outcome State Fault Refusal :=
  .next (s.whenRunning (fun x => x.request src req 2 2 index record))

/-- WRITE_GROUP (R10). -/
def execWriteGroup (src : Byte) (req : BitVec 16) (index : Byte) (record : List Byte) (s : State) :
    Outcome State Fault Refusal :=
  .next (s.whenRunning (fun x => x.request src req 2 3 index record))

/-- WRITE_MERIT (R11): object 4 is MERIT_GEN, object 5 MERIT_PUMP. -/
def execWriteMerit (which : MeritList) (src : Byte) (req : BitVec 16) (record : List Byte) (s : State) :
    Outcome State Fault Refusal :=
  .next (s.whenRunning (fun x => match which with
    | .gen => x.request src req 2 4 0 record
    | .pump => x.request src req 2 5 0 record))

/-- WRITE_CLASS (R159). -/
def execWriteClass (src : Byte) (req : BitVec 16) (index : Byte) (record : List Byte) (s : State) :
    Outcome State Fault Refusal :=
  .next (s.whenRunning (fun x => x.request src req 2 6 index record))

/-- WRITE_SEVERITY (R185). -/
def execWriteSeverity (src : Byte) (req : BitVec 16) (index : Byte) (record : List Byte) (s : State) :
    Outcome State Fault Refusal :=
  .next (s.whenRunning (fun x => x.request src req 2 7 index record))

/-- WRITE_NOTICE (R186). -/
def execWriteNotice (src : Byte) (req : BitVec 16) (record : List Byte) (s : State) :
    Outcome State Fault Refusal :=
  .next (s.whenRunning (fun x => x.request src req 2 8 0 record))

/-- CLEAR_COUNTERS (R176). -/
def execClearCounters (src : Byte) (req : BitVec 16) (s : State) :
    Outcome State Fault Refusal :=
  .next (s.whenRunning (fun x => x.request src req 3 13 0 []))

/-- CLEAR_CAPTURE (R188). -/
def execClearCapture (src : Byte) (req : BitVec 16) (s : State) :
    Outcome State Fault Refusal :=
  .next (s.whenRunning (fun x => x.request src req 3 14 0 []))

/-- CLEAR_FLAGS (R186). -/
def execClearFlags (src : Byte) (req : BitVec 16) (s : State) :
    Outcome State Fault Refusal :=
  .next (s.whenRunning (fun x => x.request src req 3 15 0 []))

/-- CLEAR_LINE (R182). -/
def execClearLine (src : Byte) (req : BitVec 16) (index : Byte) (s : State) :
    Outcome State Fault Refusal :=
  .next (s.whenRunning (fun x => x.request src req 3 16 index []))

/-- SOLVE_NOW (R44). -/
def execSolveNow (src : Byte) (req : BitVec 16) (s : State) :
    Outcome State Fault Refusal :=
  .next (s.whenRunning (fun x => x.request src req 4 1 0 []))

/-- UNIT_FAULT_CLEAR (R100). -/
def execUnitFaultClear (src : Byte) (req : BitVec 16) (index : Byte) (s : State) :
    Outcome State Fault Refusal :=
  .next (s.whenRunning (fun x => x.request src req 4 2 index []))

/-- CONVERTER_CLEAR (R127). -/
def execConverterClear (src : Byte) (req : BitVec 16) (index : Byte) (s : State) :
    Outcome State Fault Refusal :=
  .next (s.whenRunning (fun x => x.request src req 4 3 index []))

/-- ESTOP_CLEAR (R23). -/
def execEstopClear (src : Byte) (req : BitVec 16) (s : State) :
    Outcome State Fault Refusal :=
  .next (s.whenRunning (fun x => x.request src req 4 4 0 []))

/-- AUTHORITY_SET (R20). -/
def execAuthoritySet (src : Byte) (req : BitVec 16) (value : Byte) (s : State) :
    Outcome State Fault Refusal :=
  .next (s.whenRunning (fun x => x.request src req 4 5 value []))

/-- SCAN_START (R145). -/
def execScanStart (src : Byte) (req : BitVec 16) (s : State) :
    Outcome State Fault Refusal :=
  .next (s.whenRunning (fun x => x.request src req 4 6 0 []))

/-- SCAN_STOP (R146). -/
def execScanStop (src : Byte) (req : BitVec 16) (s : State) :
    Outcome State Fault Refusal :=
  .next (s.whenRunning (fun x => x.request src req 4 7 0 []))

/-- SCAN_STEP (R147). -/
def execScanStep (src : Byte) (req : BitVec 16) (s : State) :
    Outcome State Fault Refusal :=
  .next (s.whenRunning (fun x => x.request src req 4 8 0 []))

/-- SCAN_CONFIG (R148). -/
def execScanConfig (src : Byte) (req : BitVec 16) (startAddr endAddr mode protection : Byte) (s : State) :
    Outcome State Fault Refusal :=
  .next (s.whenRunning (fun x => x.request src req 4 9 0 [startAddr, endAddr, mode, protection]))

/-- LINE_RESET (R151). -/
def execLineReset (src : Byte) (req : BitVec 16) (s : State) :
    Outcome State Fault Refusal :=
  .next (s.whenRunning (fun x => x.request src req 4 10 0 []))

/-- ENGINE_RESET (R178). -/
def execEngineReset (src : Byte) (req : BitVec 16) (s : State) :
    Outcome State Fault Refusal :=
  .next (s.whenRunning (fun x => x.request src req 4 11 0 []))

/-- DEVICE_RESET (R179). -/
def execDeviceReset (src : Byte) (req : BitVec 16) (s : State) :
    Outcome State Fault Refusal :=
  .next (s.whenRunning (fun x => x.request src req 4 12 0 []))

end Sys2Proof.Machine
end

