-- ==== Sys2Proof/Machine/ExecResets.lean ====
section
/-! DEFINITION. Meanings of the ends of the resets and of the reset pin (R63, R151, R179). An end of a
processing that is not under way has no effect (log entry 4). -/
namespace Sys2Proof.Machine
open Host

/-- ENGINE_RESET_END (R63). -/
def execEngineResetEnd (s : State) :
    Outcome State Fault Refusal :=
  .next (if s.processing = .engineReset then s.endEngineReset else s)

/-- LINE_RESET_END (R151). -/
def execLineResetEnd (s : State) :
    Outcome State Fault Refusal :=
  .next (s.whenRunning (fun x => if x.line.activity = .resetting then x.endLineReset else x))

/-- DEVICE_RESET_END (R179): the processing does not end while the reset pin is low. -/
def execDeviceResetEnd (s : State) :
    Outcome State Fault Refusal :=
  .next (if s.processing = .deviceReset ∧ s.inputs.resetPinLow = false then s.endDeviceReset else s)

/-- RESET_PIN (R179). -/
def execResetPin (s : State) :
    Outcome State Fault Refusal :=
  .next ((s.setInputs { s.inputs with resetPinLow := true }).beginDeviceReset)

/-- RESET_PIN_RELEASE (R179). -/
def execResetPinRelease (s : State) :
    Outcome State Fault Refusal :=
  .next (s.setInputs { s.inputs with resetPinLow := false })

end Sys2Proof.Machine
end

