-- ==== Sys2Proof/Machine/ExecSolve.lean ====
section
/-! DEFINITION. Meanings of the completions of solves (R61, R80). A completion of a solve that is not in
flight has no effect (log entry 4), and none is taken outside REMOTE (R38). -/
namespace Sys2Proof.Machine
open Host

/-- FULL_SOLVE_COMPLETE (R61). -/
def execFullSolveComplete (s : State) :
    Outcome State Fault Refusal :=
  .next (s.whenRunning (fun x => match x.solver.phase with
    | .full n => if x.isRemote then x.completeFull n else x
    | _ => x))

/-- LOAD_SOLVE_COMPLETE (R80). -/
def execLoadSolveComplete (s : State) :
    Outcome State Fault Refusal :=
  .next (s.whenRunning (fun x => match x.solver.phase with
    | .load n => if x.isRemote then x.completeLoad n else x
    | _ => x))

end Sys2Proof.Machine
end

