-- ==== Sys2Proof/Machine/ExecTimers.lean ====
section
/-! DEFINITION. Meanings of the timers' expiries and of the passage of a second. A timer expires at the
device time at which its duration has passed (R189): an expiry command given while its timer is stopped
or before its time has no effect (log entry 4). -/
namespace Sys2Proof.Machine
open Host

/-- RAMP_STEP (R31, R32). -/
def execRampStep (s : State) :
    Outcome State Fault Refusal :=
  .next (s.whenRunning (fun x => match x.target.rampNext with
    | some e => if e ≤ x.now then x.takeRampStep e else x
    | none => x))

/-- ORDER_STALE (R34). -/
def execOrderStale (s : State) :
    Outcome State Fault Refusal :=
  .next (s.whenRunning (fun x => if x.orderIsStale then x.staleOrderNow else x))

/-- HEAD_STALE (R14). -/
def execHeadStale (s : State) :
    Outcome State Fault Refusal :=
  .next (s.whenRunning (fun x => if x.headIsStale then x.staleHeadNow else x))

/-- RESOLVE_TIMER_EXPIRY (R43). -/
def execResolveTimerExpiry (s : State) :
    Outcome State Fault Refusal :=
  .next (s.whenRunning (fun x => match x.solver.resolveNext with
    | some e => if e ≤ x.now then x.resolveExpiry e else x
    | none => x))

/-- STATUS_TIMER_EXPIRY (R166). -/
def execStatusTimerExpiry (s : State) :
    Outcome State Fault Refusal :=
  .next (s.whenRunning (fun x => if x.port.statusNext ≤ x.now then x.statusExpiry else x))

/-- TRANSITION_DEADLINE (R92), with the walk of the tracker that leaves its state (R110). -/
def execTransitionDeadline (u : UnitId) (s : State) :
    Outcome State Fault Refusal :=
  .next (s.whenRunning (fun x =>
    if dueAt (x.tracker u).deadline x.now then State.walkAfter x (x.expireTransition u) else x))

/-- PIN_END (R104). -/
def execPinEnd (u : UnitId) (s : State) :
    Outcome State Fault Refusal :=
  .next (s.whenRunning (fun x =>
    if (x.tracker u).pin = .pinned ∧ dueAt (x.tracker u).pinEnd x.now then x.endPin u else x))

/-- CONVERTER_DEADLINE (R125), with the walk of a machine that it stops (R110). -/
def execConverterDeadline (c : ConvId) (s : State) :
    Outcome State Fault Refusal :=
  .next (s.whenRunning (fun x =>
    if dueAt (x.conv c).deadline x.now then State.walkAfter x (x.expireConv c) else x))

/-- DEVICE_TIME_TICK (R189). -/
def execDeviceTimeTick (s : State) :
    Outcome State Fault Refusal :=
  .next (s.whenRunning State.tick)

end Sys2Proof.Machine
end

