-- ==== Sys2Proof/Machine/Dispatch.lean ====
section
/-! DEFINITION. One arm for each command. -/
namespace Sys2Proof.Machine
open Host

def exec (i : Instr) (s : State) : Host.Outcome State Fault Refusal :=
  match i with
  | .uFrameCheck bytes => Sys2Proof.Machine.execUFrameCheck bytes s
  | .frameClassify port dest src kind payload => Sys2Proof.Machine.execFrameClassify port dest src kind payload s
  | .target port dest src payload => Sys2Proof.Machine.execTarget port dest src payload s
  | .hold port dest src payload => Sys2Proof.Machine.execHold port dest src payload s
  | .admission port dest src payload => Sys2Proof.Machine.execAdmission port dest src payload s
  | .head port dest src payload => Sys2Proof.Machine.execHead port dest src payload s
  | .unitReport dest src payload => Sys2Proof.Machine.execUnitReport dest src payload s
  | .converterReport dest src payload => Sys2Proof.Machine.execConverterReport dest src payload s
  | .nilReply dest src payload => Sys2Proof.Machine.execNilReply dest src payload s
  | .replyWindowReception bytes => Sys2Proof.Machine.execReplyWindowReception bytes s
  | .strayReception bytes => Sys2Proof.Machine.execStrayReception bytes s
  | .receptionLimit => Sys2Proof.Machine.execReceptionLimit s
  | .replyWindowTimeout => Sys2Proof.Machine.execReplyWindowTimeout s
  | .unitLineTxEnd => Sys2Proof.Machine.execUnitLineTxEnd s
  | .pollTxEnd => Sys2Proof.Machine.execPollTxEnd s
  | .dispatchTxEnd => Sys2Proof.Machine.execDispatchTxEnd s
  | .rampStep => Sys2Proof.Machine.execRampStep s
  | .orderStale => Sys2Proof.Machine.execOrderStale s
  | .headStale => Sys2Proof.Machine.execHeadStale s
  | .resolveTimerExpiry => Sys2Proof.Machine.execResolveTimerExpiry s
  | .statusTimerExpiry => Sys2Proof.Machine.execStatusTimerExpiry s
  | .transitionDeadline u => Sys2Proof.Machine.execTransitionDeadline u s
  | .pinEnd u => Sys2Proof.Machine.execPinEnd u s
  | .converterDeadline c => Sys2Proof.Machine.execConverterDeadline c s
  | .fullSolveComplete => Sys2Proof.Machine.execFullSolveComplete s
  | .loadSolveComplete => Sys2Proof.Machine.execLoadSolveComplete s
  | .engineResetEnd => Sys2Proof.Machine.execEngineResetEnd s
  | .lineResetEnd => Sys2Proof.Machine.execLineResetEnd s
  | .deviceResetEnd => Sys2Proof.Machine.execDeviceResetEnd s
  | .resetPin => Sys2Proof.Machine.execResetPin s
  | .tripLineAssert u => Sys2Proof.Machine.execTripLineAssert u s
  | .tripLineDeassert u => Sys2Proof.Machine.execTripLineDeassert u s
  | .emergencyStopEdge => Sys2Proof.Machine.execEmergencyStopEdge s
  | .localRemoteAssert => Sys2Proof.Machine.execLocalRemoteAssert s
  | .localRemoteDeassert => Sys2Proof.Machine.execLocalRemoteDeassert s
  | .read src req object index => Sys2Proof.Machine.execRead src req object index s
  | .writeSettings src req record => Sys2Proof.Machine.execWriteSettings src req record s
  | .writeUnit src req index record => Sys2Proof.Machine.execWriteUnit src req index record s
  | .writeGroup src req index record => Sys2Proof.Machine.execWriteGroup src req index record s
  | .writeMerit which src req record => Sys2Proof.Machine.execWriteMerit which src req record s
  | .writeClass src req index record => Sys2Proof.Machine.execWriteClass src req index record s
  | .writeSeverity src req index record => Sys2Proof.Machine.execWriteSeverity src req index record s
  | .writeNotice src req record => Sys2Proof.Machine.execWriteNotice src req record s
  | .clearCounters src req => Sys2Proof.Machine.execClearCounters src req s
  | .clearCapture src req => Sys2Proof.Machine.execClearCapture src req s
  | .clearFlags src req => Sys2Proof.Machine.execClearFlags src req s
  | .clearLine src req index => Sys2Proof.Machine.execClearLine src req index s
  | .solveNow src req => Sys2Proof.Machine.execSolveNow src req s
  | .unitFaultClear src req index => Sys2Proof.Machine.execUnitFaultClear src req index s
  | .converterClear src req index => Sys2Proof.Machine.execConverterClear src req index s
  | .estopClear src req => Sys2Proof.Machine.execEstopClear src req s
  | .authoritySet src req value => Sys2Proof.Machine.execAuthoritySet src req value s
  | .scanStart src req => Sys2Proof.Machine.execScanStart src req s
  | .scanStop src req => Sys2Proof.Machine.execScanStop src req s
  | .scanStep src req => Sys2Proof.Machine.execScanStep src req s
  | .scanConfig src req startAddr endAddr mode protection => Sys2Proof.Machine.execScanConfig src req startAddr endAddr mode protection s
  | .lineReset src req => Sys2Proof.Machine.execLineReset src req s
  | .engineReset src req => Sys2Proof.Machine.execEngineReset src req s
  | .deviceReset src req => Sys2Proof.Machine.execDeviceReset src req s
  | .emergencyStopRelease => Sys2Proof.Machine.execEmergencyStopRelease s
  | .receptionStart => Sys2Proof.Machine.execReceptionStart s
  | .resetPinRelease => Sys2Proof.Machine.execResetPinRelease s
  | .deviceTimeTick => Sys2Proof.Machine.execDeviceTimeTick s

end Sys2Proof.Machine
end

