-- ==== Sys2Proof/Machine/Step.lean ====
section
/-! DEFINITION. The step: the command at the front of the queue is taken. -/
namespace Sys2Proof.Machine

/-- One step. The command at the front of the queue runs on everything but the queue, which keeps its rest.
With no command waiting the block idles, except that a free unit line makes the choice of R133 that is
its own (log entry 3). -/
def step (s : State) : Host.Outcome State Fault Refusal :=
  match s.pending with
  | c :: rest => exec c (s.setPending rest)
  | [] => .next s.lineChoose

/-- The state with the command that a word spells at the front of its queue; the same state when the word
spells none. -/
def State.withFetchWord (s : State) (nbits w : Nat) : State :=
  match decodeTableWord nbits w with
  | some c => s.setPending (c :: s.pending)
  | none => s

end Sys2Proof.Machine
end

