-- ==== Sys2Proof/Safety.lean ====
section
/-! DEFINITION. What the statements speak of: which blocks of the state a command leaves unchanged, the
frames that wait on the dispatch port, and what every safe state holds. -/
namespace Sys2Proof.Machine

/-! ## Frames of commands -/

/-- The blocks of the state, one for each field of `State`. -/
inductive Block where
  | settings | table | target | solver | trackers | queue | convs | line | classes | port | inputs
  | errors | processing | resetAwaiting | pending
deriving DecidableEq, Repr

/-- A block is the same in two states. -/
def Block.same (b : Block) (s t : State) : Prop :=
  match b with
  | .settings => t.settings = s.settings
  | .table => t.table = s.table
  | .target => t.target = s.target
  | .solver => t.solver = s.solver
  | .trackers => t.trackers = s.trackers
  | .queue => t.queue = s.queue
  | .convs => t.convs = s.convs
  | .line => t.line = s.line
  | .classes => t.classes = s.classes
  | .port => t.port = s.port
  | .inputs => t.inputs = s.inputs
  | .errors => t.errors = s.errors
  | .processing => t.processing = s.processing
  | .resetAwaiting => t.resetAwaiting = s.resetAwaiting
  | .pending => t.pending = s.pending

/-- Every block outside a list is the same in two states. -/
def Unchanged (changed : List Block) (s t : State) : Prop := ∀ b, b ∉ changed → b.same s t

/-- The frames that have left for, or wait for, the dispatch network as the part's own or in
transmission: the frame in transmission, then the own queue in order (R164, R165). -/
def State.outgoing (s : State) : List OwnFrame := s.port.tx.toList ++ s.port.own

/-- The part takes a management request: no reset is in processing or awaited (R171, test 1), and the station
address is an address of R168. -/
def State.takesRequests (s : State) : Prop :=
  s.processing = .none ∧ s.resetAwaiting = false ∧ s.line.activity ≠ .resetting
    ∧ s.settings.stationAddr ≤ 254

/-- A management request counted as received on port U (R169). -/
def State.counted (s : State) : State := s.countTraffic (fun t => t.received .u)

/-- A frame counted as received on the unit line (R169). -/
def State.countedD (s : State) : State := s.countTraffic (fun t => t.received .d)

/-- The own queue has a place. -/
def State.ownHasPlace (s : State) : Prop := s.port.own.length < Config.ownQueueSize

/-- A frame of the part's own joins behind the frames that wait on the dispatch port, and nothing else of the
part moves (R164, R165). -/
structure State.Gains (x t : State) (f : Frame) : Prop where
  outgoing : t.outgoing = x.outgoing ++ [⟨f, false⟩]
  port : t.port = { x.port with own := t.port.own, tx := t.port.tx }
  rest : Unchanged [.port] x t

/-- The one reply to a request whose effects left the state `x`: it joins the own queue, or a full own queue
drops it with U_OWN_OVERFLOW, and the effects stand (R164, R170). -/
structure State.Answers (x t : State) (src : Byte) (req : BitVec 16) (r : Reply) : Prop where
  joins : x.ownHasPlace → x.Gains t (x.replyFrame src.toNat req.toNat r)
  dropped : ¬ x.ownHasPlace → t = x.detectAt .uOwnOverflow 0

/-- What a detection does when the own queue has a place: the five steps of R183 with the capture of R188
and the ALARM of R187, and nothing else of the monitor or the port. -/
structure State.Records (s t : State) (d : Detection) : Prop where
  errors : t.errors = { s.errors with
    detected := upd s.errors.detected (kindIndex d.kind) true
    counters := upd s.errors.counters (kindIndex d.kind) (satInc (s.counter d.kind))
    orderSource :=
      if d.kind = .orderRefused ∧ d.sub = .orderSource then satInc s.errors.orderSource
      else s.errors.orderSource
    classFlags := setClass s.errors.classFlags (s.severityOf d.kind) true
    capture :=
      if s.severityOf d.kind = .major ∧ s.errors.capture = none then some ⟨d, s.now⟩
      else s.errors.capture }
  outgoing : t.outgoing = s.outgoing ++
    (if perClass s.errors.classFlags (s.severityOf d.kind) = false
        ∧ perClass s.errors.notice.enable (s.severityOf d.kind) = true ∧ s.errors.notice.addr ≠ 0
      then [⟨s.alarmFrame d, false⟩] else [])
  port : t.port = { s.port with own := t.port.own, tx := t.port.tx }

/-- A frame for the part's own station address from the dispatch port can be taken: no device reset is in
processing, the frame fits the envelope, and it is addressed to the part. -/
def State.hears (s : State) (dest : Byte) (payload : List Byte) : Prop :=
  s.processing ≠ .deviceReset ∧ payload.length ≤ Config.maxPayload
    ∧ dest.toNat = s.settings.stationAddr

/-- A plant order from `src` is one of the dispatch centre's under REMOTE (R26). -/
def State.acceptsOrders (s : State) (src : Byte) : Prop :=
  s.settings.dispatchAddr ≠ 0 ∧ src.toNat = s.settings.dispatchAddr ∧ s.isRemote = true

/-! ## Routing of frames (chapter 8) -/

/-- A classification entry takes a frame that arrives on a port (R160). -/
def ClassEntry.Takes (e : ClassEntry) (p : Port) (f : Frame) : Prop :=
  e.inUse = true ∧ (e.port = .any ∨ (e.port = .u ∧ p = .u) ∨ (e.port = .d ∧ p = .d))
    ∧ e.destLo ≤ f.dest.toNat ∧ f.dest.toNat ≤ e.destHi
    ∧ ¬ (e.exclLo ≤ f.dest.toNat ∧ f.dest.toNat ≤ e.exclHi)
    ∧ ∀ codes, e.kinds = some codes → f.kind.toNat ∈ codes

/-- What the classifier makes of a counted frame that is no report of a station, from the state `x` that
takes it to the state `t` (R155 to R157, R160 to R162). A management request for the part on the
dispatch port is the responder's. -/
structure State.Routes (x t : State) (p : Port) (f : Frame) : Prop where
  ownU : f.dest.toNat = x.settings.stationAddr → p = .u → f.kind ≠ kindCode .mgmtRequest →
    t = x.consumeOwned .u f (fun y => y.detectAt .frameKindUnknown 0)
  ownD : f.dest.toNat = x.settings.stationAddr → p = .d → t = x.detectAt .orderRefused f.src.toNat
  broadcast : f.dest.toNat ≠ x.settings.stationAddr → f.dest.toNat = Config.broadcast →
    t = (x.consumeOwned p f id).forwardFrame p f
  entry : f.dest.toNat ≠ x.settings.stationAddr → f.dest.toNat ≠ Config.broadcast →
    ∀ k : ClassId, (x.classes.get k).Takes p f → (∀ j < k, ¬ (x.classes.get j).Takes p f) →
      t = x.actOn p f (x.classes.get k).action
  default : f.dest.toNat ≠ x.settings.stationAddr → f.dest.toNat ≠ Config.broadcast →
    (∀ k : ClassId, ¬ (x.classes.get k).Takes p f) →
      t = x.actOn p f (if p = .u then x.settings.defaultU else x.settings.defaultD)

/-! ## Changes of a tracker, of a converter and of the authority -/

/-- A tracker change from `s` to `x` with what it hands on (R40, R41, R85, R109): the tracker's own fields,
its start queue entry, an AVAILABILITY trigger unless it passes between two transitional states, and a
PIN trigger when it finds its pin served. -/
structure State.Enters (s x : State) (u : UnitId) (st : TState) (granted : Option ConvId)
    (cause : FaultCause) : Prop where
  tracker : x.tracker u = (s.tracker u).enter s.now (s.unit u) st granted cause
  others : ∀ v, v ≠ u → x.tracker v = s.tracker v
  queue : x.queue = s.queue.filter (fun e => decide (¬ (e.unit = u ∧
    ((s.tracker u).state = .idle ∧ e.kind ≠ .changeover
      ∨ (s.tracker u).state = .pump ∧ e.kind = .changeover))))
  solver : ∃ y z : State, y = (s.setTrackers x.trackers).setQueue x.queue
    ∧ z = (if (s.tracker u).state.transitional = true ∧ st.transitional = true then y
        else y.fullTrigger .availability)
    ∧ x.solver = (if (x.tracker u).pin = .served then z.fullTrigger .pin else z).solver

/-- The converter that a machine leaving PUMP_SPIN has its grant of, while it is spinning the machine up
(R117, R124). -/
def State.spinner (s : State) (u : UnitId) : Option ConvId :=
  if (s.tracker u).state = .pumpSpin then
    (s.tracker u).granted.filter (fun c => (s.conv c).state.spinning.isSome)
  else none

/-- The release of a converter that is spinning a machine up, if any: DETACH queued behind the orders of a
line, and the record to DETACHING with its deadline (R123 to R125). -/
structure State.Detaches (s ordered x : State) (c : Option ConvId) : Prop where
  none : c = none → x.line = ordered.line ∧ x.convs = s.convs
  some : ∀ k v, c = some k → (s.conv k).state.spinning = some v →
    x.line = (ordered.placeOrder (.conv k .detach)).line
      ∧ x.conv k = { s.conv k with
          state := .detaching v, entryTime := s.now, cause := .noCause
          deadline := some (s.now + s.settings.attachTimeout) }
      ∧ ∀ j, j ≠ k → x.conv j = s.conv j

/-- A machine is faulted (R92, R94, R96): FAULTED with its cause, STOP queued, a granted converter released,
the error recorded at the machine's index. -/
structure State.Faults (s x : State) (u : UnitId) (cause : FaultCause) (kind : ErrorKind) : Prop where
  enters : s.Enters x u .faulted none cause
  detaches : s.Detaches (s.placeOrder (.unit u .stop)) x (s.spinner u)
  records : s.Records x (detection kind (unitNumber u))
  unchanged : Unchanged [.trackers, .queue, .solver, .line, .convs, .errors, .port] s x

/-- The orders that the latching of ESTOP hands to the unit line: STOPs for the machines in ascending
index, then DETACHs for the converters in ascending number (R22). -/
def State.estopOrders (s : State) : List Order :=
  (allUnits.filter (fun u => (s.tracker u).state.stoppedByEstop)).map (fun u => .unit u .stop)
    ++ (allConvs.filter (fun c => (s.conv c).state.spinning.isSome)).map (fun c => .conv c .detach)

/-- Entry to REMOTE (R24): both targets at the measured plant power within the limits, the ramp timer
stopped, the order's reference time moved, the AUTHORITY trigger fired. -/
structure State.EntersRemote (s x : State) : Prop where
  target : x.target = { s.target with
    tf := max s.settings.plantMin (min s.settings.plantMax s.plantPower)
    te := max s.settings.plantMin (min s.settings.plantMax s.plantPower)
    rampNext := none, orderRef := s.now }
  solver : x.solver = ((s.setTarget x.target).fullTrigger .authority).solver
  unchanged : Unchanged [.target, .solver] s x

/-- Leaving REMOTE (R25; the re-solve timer by R43): the start queue emptied, a solve in flight discarded
with the latches, the orders that start or load machines removed, every last-sent setpoint none, the
hold off, both timers stopped. -/
structure State.LeavesRemote (s x : State) : Prop where
  queue : x.queue = []
  solver : x.solver = { s.solver with
    phase := .idle, fullPending := false, loadPending := false, resolveNext := none
    discarded := match s.solver.phase with
      | .full _ => satInc s.solver.discarded
      | _ => s.solver.discarded }
  line : x.line = { s.line with orders := s.line.orders.filter (fun q => match q.order with
    | .unit _ .stop => true
    | .conv _ .detach => true
    | _ => false) }
  trackers : ∀ u, x.tracker u = { s.tracker u with lastSent := none }
  target : x.target = { s.target with holdFlag := false, rampNext := none }
  unchanged : Unchanged [.queue, .solver, .line, .trackers, .target] s x

/-- A timer, a completion or an end of processing that is not due: its timer is stopped or its time has not
come, its solve is not in flight in REMOTE, its processing or transmission is not under way. -/
def State.notDue (s : State) : Instr → Prop
  | .rampStep => ∀ e, s.target.rampNext = some e → s.now < e
  | .orderStale => s.isRemote = false ∨ s.settings.orderTimeout = 0 ∨ s.target.staleOrder = true
      ∨ s.now < s.target.orderRef + s.settings.orderTimeout
  | .headStale => s.table.headStale = true ∨ s.now < s.table.headRef + s.settings.headStaleTime
  | .resolveTimerExpiry => ∀ e, s.solver.resolveNext = some e → s.now < e
  | .statusTimerExpiry => s.now < s.port.statusNext
  | .transitionDeadline u => ∀ e, (s.tracker u).deadline = some e → s.now < e
  | .pinEnd u => (s.tracker u).pin = .pinned → ∀ e, (s.tracker u).pinEnd = some e → s.now < e
  | .converterDeadline c => ∀ e, (s.conv c).deadline = some e → s.now < e
  | .fullSolveComplete => s.isRemote = false ∨ ∀ n, s.solver.phase ≠ .full n
  | .loadSolveComplete => s.isRemote = false ∨ ∀ n, s.solver.phase ≠ .load n
  | .engineResetEnd => s.processing ≠ .engineReset
  | .lineResetEnd => s.line.activity ≠ .resetting
  | .deviceResetEnd => s.processing ≠ .deviceReset ∨ s.inputs.resetPinLow = true
  | .unitLineTxEnd => ∀ w f, s.line.activity = .sending w f → ∃ a k, w = .poll a k
  | .pollTxEnd => ∀ a k f, s.line.activity ≠ .sending (.poll a k) f
  | .dispatchTxEnd => s.port.tx = none
  | .replyWindowTimeout => ∀ a k n e, s.line.activity ≠ .window a k n e
  | .receptionLimit => s.line.rx = none
  | _ => False

/-! ## Snapshots, the set S and the share-out -/

/-- A snapshot holds what R39 lists, as the state has it. -/
structure Snapshot.Holds (n : Snapshot) (s : State) : Prop where
  time : n.time = s.now
  targets : n.tf = s.target.tf ∧ n.te = s.target.te
  head : n.head = s.table.head
  tables : n.units = s.table.units ∧ n.groups = s.table.groups
    ∧ n.meritGen = s.table.meritGen ∧ n.meritPump = s.table.meritPump
  trackers : ∀ u, n.trackers.get u = ⟨(s.tracker u).state, (s.tracker u).runSince,
    (s.tracker u).restSince, (s.tracker u).pin, (s.tracker u).admitted, (s.tracker u).rptPower,
    (s.tracker u).rptValid⟩
  queue : n.queue = s.queue

/-- A full solve has started at `s` (R39, R42, R43, R48): the part of the solver it sets, the rest as a state
`v` of the solver. -/
structure Solver.StartedFull (s : State) (v x : Solver) : Prop where
  phase : ∃ n : Snapshot, n.Holds s ∧ x.phase = .full n
  rest : x = { v with
    phase := x.phase, loadPending := false, headRef := s.table.head, lastFullStart := some s.now
    resolveNext := if s.settings.resolvePeriod = 0 then none else some (s.now + s.settings.resolvePeriod) }

/-- The machines placed in S at the end of a commitment pass (R51). -/
def Snapshot.placed (n : Snapshot) : List Placed := n.pinnedSet ++ n.commit.added

/-- A group's machines may stand in opposite classes in the snapshot (R9, R52). -/
def Snapshot.mayOppose (n : Snapshot) (g : GroupId) : Prop :=
  (n.groups.get g).shortCircuit = .permitted

/-- GEN and PUMP are opposite (R52). -/
def Cls.Opposed : Cls → Cls → Prop
  | .gen, .pump => True
  | .pump, .gen => True
  | _, _ => False

/-- A machine may join the set S in a class (R52): it is free and not in S, its record is PRESENT, its group holds
no machine of S in the opposite class or permits it, and for the class PUMP a converter is in its reach or it is
in PUMP. -/
def Snapshot.MayJoin (n : Snapshot) (set : List Placed) (u : UnitId) (k : Cls) : Prop :=
  n.isFree u = true ∧ (∀ p ∈ set, p.unit ≠ u) ∧ ∃ r, n.unit u = some r
    ∧ (n.mayOppose r.group
      ∨ ∀ p ∈ set, p.cls.Opposed k → ∀ q, n.unit p.unit = some q → q.group ≠ r.group)
    ∧ (k = .pump → r.reach1 = true ∨ r.reach2 = true ∨ (n.tracker u).state = .pump)

/-- The machines that a walk tests, in its order: those of the merit list that are steady in the class, then those
that are IDLE (R53). -/
def Snapshot.walkOrder (n : Snapshot) (steadyIn : TState) (merit : List UnitId) : List UnitId :=
  merit.filter (fun u => (n.tracker u).state == steadyIn)
    ++ merit.filter (fun u => (n.tracker u).state == .idle)

/-- A walk of R53 to R55 over a merit list. `walked` are the machines that it added, in order, each while the
target was not met: the first of the walk's order that could join; a walk that ends with the target not met
has no machine left that could. -/
structure Snapshot.Walks (n : Snapshot) (unmet : List Placed → Prop) (steadyIn : TState) (k : Cls)
    (merit : List UnitId) (walked : List Placed) : Prop where
  inOrder : (walked.map (fun p => p.unit)).Sublist (n.walkOrder steadyIn merit)
  joins : ∀ pre p post, walked = pre ++ p :: post →
    unmet (n.pinnedSet ++ pre) ∧ n.MayJoin (n.pinnedSet ++ pre) p.unit k ∧ p.cls = k
      ∧ p.basis = (if (n.tracker p.unit).state = .idle then .addedIdle else .addedSteady)
  skips : ∀ pre p post a b, walked = pre ++ p :: post →
    n.walkOrder steadyIn merit = a ++ p.unit :: b → p.unit ∉ a →
      ∀ u ∈ a, ¬ n.MayJoin (n.pinnedSet ++ pre) u k
  ends : unmet (n.pinnedSet ++ walked) → ∀ u ∈ n.walkOrder steadyIn merit,
    ¬ n.MayJoin (n.pinnedSet ++ walked) u k

/-- A machine that the short-circuit walk may take beside a set S (R56). -/
def Snapshot.Bridges (n : Snapshot) (set : List Placed) (u : UnitId) : Prop :=
  n.MayJoin set u .gen ∧ ∀ r, n.unit u = some r →
    n.loOf set + r.genMin ≤ n.tf ∧ n.tf ≤ n.hiOf set + r.genMax

/-- What a machine of a steady set receives beyond lo plus its share: one step for each of the first `r`
machines of nonzero width before and at its place (R72). -/
def stepAt (r : Nat) (l : List Loaded) (i : Nat) : Int :=
  match l[i]? with
  | none => 0
  | some m =>
    if 0 < m.band.width ∧ ((l.take i).filter (fun k => decide (0 < k.band.width))).length < r then 1
    else 0

/-! ## Receptions and reports on the unit line (chapters 5 to 7) -/

/-- The miss counts with one station's count set (R141). -/
def State.missesWith (s : State) (a n : Nat) : Vector Nat 15 :=
  match stationIndex a with
  | some i => upd s.line.misses i n
  | none => s.line.misses

/-- The part with the reception from a station over and a tracked station's miss count at 0 (R139). -/
def State.heard (s : State) (a : Nat) : State :=
  s.setLine { s.line with
    rx := none, misses := if s.tracked a then s.missesWith a 0 else s.line.misses }

/-- A reply window closed (R137): the scan advances and stops as R143, R144 and R146 give, and the free
line chooses (R133). -/
def State.closed (y : State) (a : Nat) (advance : Bool) : State :=
  (y.setLine { y.line with
    activity := .idle
    nextAddr := if advance = false then y.line.nextAddr
      else if a = y.line.scanEnd then y.line.scanStart else if a = 15 then 1 else a + 1
    scan := if y.line.stopPending = true
        ∨ advance = true ∧ a = y.line.scanEnd ∧ y.line.scanMode = .single then .stopped
      else y.line.scan
    stopPending := false }).lineChoose

/-- The windows of the line and a reception that began in one, or that begins now (R137). -/
def State.InWindow (s : State) (a : Nat) (advance expired : Bool) : Prop :=
  s.processing ≠ .deviceReset ∧ (∃ t, s.line.activity = .window a advance t expired)
    ∧ (s.line.rx = none ∨ s.line.rx = some .inWindow)

/-- The fields of a unit report, as R82 and section 11.2 lay them out. -/
def ReportSays (p : List Byte) (r : UnitReport) : Prop :=
  ∃ m b p1 p0, p = [m, b, p1, p0]
    ∧ [UnitMode.atRest, .genSeq, .runningGen, .pumpSeqSpin, .synchronized, .priming, .runningPump,
        .changeoverSeq, .stopSeq, .tripped][m.toNat]? = some r.mode
    ∧ b.toNat ≤ 1 ∧ r.ready = (b == 1) ∧ r.power = int16 p1 p0 ∧ -6000 ≤ r.power ∧ r.power ≤ 6000

/-- The state that a report other than TRIPPED teaches (R86). -/
def UnitReport.Adopts (r : UnitReport) (st : TState) : Prop :=
  r.mode = .atRest ∧ r.ready = true ∧ st = .idle ∨ r.mode = .atRest ∧ r.ready = false ∧ st = .notReady
    ∨ r.mode = .runningGen ∧ st = .gen ∨ r.mode = .runningPump ∧ st = .pump
    ∨ r.mode ∈ [UnitMode.genSeq, .pumpSeqSpin, .synchronized, .priming, .changeoverSeq, .stopSeq]
      ∧ st = .observed

/-- The states that learn from any report (R86): UNKNOWN, LOST, OBSERVED. -/
def TState.Learns (st : TState) : Prop := st = .unknown ∨ st = .lost ∨ st = .observed

/-- The reports that a tracker's state takes without a change (R86 to R88, R90, R91). -/
def Tracker.Accepts (t : Tracker) (r : UnitReport) : Prop :=
  (t.state, r.mode) ∈ [(TState.gen, UnitMode.runningGen), (.pump, .runningPump), (.genStart, .atRest),
      (.genStart, .genSeq), (.pumpSpin, .atRest), (.pumpSpin, .pumpSeqSpin),
      (.pumpPrime, .synchronized), (.pumpPrime, .priming), (.changeover, .runningPump),
      (.changeover, .changeoverSeq), (.stopping, .stopSeq)]
    ∨ t.state = .idle ∧ r.mode = .atRest ∧ r.ready = true
    ∨ t.state = .notReady ∧ r.mode = .atRest ∧ r.ready = false
    ∨ t.state = .observed ∧ r.Adopts .observed
    ∨ t.state = .stopping ∧ ∃ o, t.stopOrigin = some o
      ∧ (o, r.mode) ∈ [(TState.gen, UnitMode.runningGen), (.pump, .runningPump), (.genStart, .genSeq),
          (.genStart, .runningGen), (.pumpSpin, .pumpSeqSpin), (.pumpPrime, .synchronized),
          (.pumpPrime, .priming), (.pumpPrime, .runningPump), (.changeover, .runningPump),
          (.changeover, .changeoverSeq), (.changeover, .runningGen)]

/-- The reports that move a tracker on from its state (R87, R90, R91), but for the release of R90. -/
def Tracker.Moves (t : Tracker) (r : UnitReport) (st : TState) : Prop :=
  (t.state, r.mode, st) ∈ [(TState.genStart, UnitMode.runningGen, TState.gen),
      (.pumpPrime, .runningPump, .pump), (.changeover, .runningGen, .gen)]
    ∨ t.state ∈ [TState.idle, .stopping] ∧ r.mode = .atRest ∧ r.ready = false ∧ st = .notReady
    ∨ t.state ∈ [TState.notReady, .stopping] ∧ r.mode = .atRest ∧ r.ready = true ∧ st = .idle

/-- What a tracker makes of a report that `x` has recorded (R82, R86 to R95). A LEVEL trip line that holds the
machine turns a re-learn or an adopted state into its fault (R97). -/
structure State.TakesReport (x z : State) (u : UnitId) (r : UnitReport) : Prop where
  faulted : (x.tracker u).state = .faulted → z = x
  tripped : (x.tracker u).state ≠ .faulted → r.mode = .tripped →
    ¬ ((x.tracker u).state.Learns ∧ x.held u = true) → x.Faults z u .unitTrip .unitTrip
  accepted : r.mode ≠ .tripped → (x.tracker u).Accepts r → z = x
  learned : (x.tracker u).state.Learns → r.mode ≠ .tripped → ¬ (x.tracker u).Accepts r →
    x.held u = false → ∀ st, r.Adopts st →
      x.Enters z u st none .noCause ∧ Unchanged [.trackers, .queue, .solver] x z
  learnedHeld : (x.tracker u).state.Learns → (r.mode = .tripped ∨ ¬ (x.tracker u).Accepts r) →
    x.held u = true → x.Faults z u .tripLine .unitTrip
  moved : ∀ st, (x.tracker u).Moves r st →
    x.Enters z u st none .noCause ∧ Unchanged [.trackers, .queue, .solver] x z
  released : (x.tracker u).state = .pumpSpin → r.mode = .synchronized →
    x.Enters z u .pumpPrime none .noCause ∧ x.Detaches x z (x.spinner u)
      ∧ Unchanged [.trackers, .queue, .solver, .line, .convs] x z
  mismatched : (x.tracker u).state ≠ .faulted → ¬ (x.tracker u).state.Learns → r.mode ≠ .tripped →
    ¬ (x.tracker u).Accepts r → (∀ st, ¬ (x.tracker u).Moves r st) →
    ¬ ((x.tracker u).state = .pumpSpin ∧ r.mode = .synchronized) →
      (x.held u = true → x.Faults z u .tripLine .unitTrip)
      ∧ (x.held u = false → ∀ st, r.Adopts st → x.Records z (detection .reportMismatch (unitNumber u))
          ∧ x.Detaches x z (x.spinner u) ∧ x.Enters z u st none .noCause
          ∧ Unchanged [.trackers, .queue, .solver, .line, .convs, .errors, .port] x z)

/-- A converter record changes its state (R117, R125): entry time, deadline, cause, validity; the other
converter is left. -/
def State.ConvEnters (x z : State) (c : ConvId) (st : ConvState) (cause : ConvCause) : Prop :=
  z.conv c = { x.conv c with
      state := st, entryTime := x.now, cause := cause
      deadline := if (∃ u, st = .attaching u) ∨ ∃ u, st = .detaching u
        then some (x.now + x.settings.attachTimeout) else none
      rptValid := if st = .unknown ∨ st = .lost then false else (x.conv c).rptValid }
    ∧ ∀ j, j ≠ c → z.conv j = x.conv j

/-- A converter that leaves a state has, or has not, a machine that it was spinning up stopped with it: STOP
queued, the tracker to STOPPING (R126, R128). -/
structure State.StopsSpun (x z : State) (c : ConvId) : Prop where
  spun : ∀ u, (x.conv c).state = .attaching u ∨ (x.conv c).state = .driving u →
    x.Enters z u .stopping none .noCause ∧ z.line = (x.placeOrder (.unit u .stop)).line
  idle : (∀ u, (x.conv c).state ≠ .attaching u ∧ (x.conv c).state ≠ .driving u) →
    Unchanged [.convs, .errors, .port] x z
  unchanged : Unchanged [.trackers, .queue, .solver, .line, .convs, .errors, .port] x z

/-- A converter record enters FAULTED (R126). -/
structure State.ConvFaults (x z : State) (c : ConvId) (cause : ConvCause) : Prop where
  enters : x.ConvEnters z c .faulted cause
  records : x.Records z (detection .converterFault (convStation c))
  stops : x.StopsSpun z c

/-- What a converter record makes of a report that `x` has recorded (R118 to R122, R126, R130). `v` is the
machine that a report of ATTACHED or DRIVING names. -/
structure State.TakesConvReport (x z : State) (c : ConvId) (m : ConvMode) (v : UnitId) : Prop where
  stays : (x.conv c).state = .absent ∨ (x.conv c).state = .faulted → z = x
  fault : (x.conv c).state ≠ .absent → (x.conv c).state ≠ .faulted → m = .fault →
    x.ConvFaults z c .reported
  idleFrees : m = .idle → ((x.conv c).state = .unknown ∨ (x.conv c).state = .lost
      ∨ ∃ u, (x.conv c).state = .observed u ∨ (x.conv c).state = .detaching u) →
    x.ConvEnters z c .free .noCause ∧ Unchanged [.convs] x z
  idleDrops : m = .idle → ∀ u, (x.conv c).state = .driving u → x.ConvFaults z c .dropped
  idleKept : m = .idle → ((x.conv c).state = .free ∨ ∃ u, (x.conv c).state = .attaching u) → z = x
  learned : m = .attached ∨ m = .driving → (x.conv c).state = .unknown ∨ (x.conv c).state = .lost →
    x.ConvEnters z c (.observed v) .noCause ∧ Unchanged [.convs] x z
  taken : m = .attached ∨ m = .driving → ((x.conv c).state = .free
      ∨ ∃ u, (x.conv c).state = .detaching u ∧ v ≠ u) →
    x.ConvEnters z c (.observed v) .noCause ∧ x.Records z (detection .reportMismatch (convStation c))
      ∧ Unchanged [.convs, .errors, .port] x z
  watched : m = .attached ∨ m = .driving → ∀ u, (x.conv c).state = .observed u →
    z.conv c = { x.conv c with state := .observed v } ∧ (∀ j, j ≠ c → z.conv j = x.conv j)
      ∧ Unchanged [.convs] x z
  kept : m = .attached ∨ m = .driving → (x.conv c).state = .driving v ∨ (x.conv c).state = .detaching v →
    z = x
  wrong : m = .attached ∨ m = .driving → ∀ u, v ≠ u →
    (x.conv c).state = .attaching u ∨ (x.conv c).state = .driving u → x.ConvFaults z c .wrongUnit
  attached : m = .attached ∨ m = .driving → (x.conv c).state = .attaching v →
    (x.isRemote = true → x.ConvEnters z c (.driving v) .noCause
      ∧ z.line = (x.placeOrder (.unit v (.startPump c))).line ∧ Unchanged [.convs, .line] x z)
    ∧ (x.isRemote = false → x.ConvEnters z c (.detaching v) .noCause
      ∧ x.Enters z v .stopping none .noCause
      ∧ z.line = ((x.placeOrder (.conv c .detach)).placeOrder (.unit v .stop)).line
      ∧ Unchanged [.convs, .line, .trackers, .queue, .solver] x z)

/-! ## The admission walk (chapter 6) -/

/-- A machine holds another back by their group's interlock (R112, test 2). -/
def State.HoldsBack (s : State) (v u : UnitId) : Prop :=
  v ≠ u ∧ ∃ r q, s.unit u = some r ∧ s.unit v = some q ∧ q.group = r.group
    ∧ (s.table.groups.get r.group).interlock = true
    ∧ (s.tracker v).state ∈ [TState.genStart, .pumpSpin, .pumpPrime, .changeover, .observed]

/-- A converter can be granted to a machine (R112, test 3; R114). -/
def State.CanGrant (s : State) (u : UnitId) (c : ConvId) : Prop :=
  (s.conv c).state = .free ∧ ∃ r, s.unit u = some r ∧ (if c = 0 then r.reach1 else r.reach2) = true

/-- What the last walk says of an entry that it left waiting (R108, R112). -/
def State.PassesOver (s : State) (e : Entry) : Prop :=
  (∃ v, s.HoldsBack v e.unit ∧ (∀ w, w < v → ¬ s.HoldsBack w e.unit)
      ∧ e.reason = .interlock ∧ e.blocking = some v)
    ∨ (∀ v, ¬ s.HoldsBack v e.unit) ∧ e.kind = .startPump ∧ (∀ c, ¬ s.CanGrant e.unit c)
      ∧ e.reason = .noConverter ∧ e.blocking = none

/-- An entry may start: no machine holds its machine back, and a pump start finds a converter (R112). -/
def State.MayStart (s : State) (e : Entry) : Prop :=
  (∀ v, ¬ s.HoldsBack v e.unit) ∧ (e.kind = .startPump → ∃ c, s.CanGrant e.unit c)

/-- The start of an entry (R113, R114): the entry leaves the queue, its machine enters the start state of its
kind, and its order is queued; a pump start is granted the lowest-numbered converter that it can be granted, which
goes to ATTACHING. -/
structure State.Starts (s x : State) (e : Entry) : Prop where
  queue : x.queue = s.queue.filter (fun q => q.unit != e.unit)
  others : ∀ v, v ≠ e.unit → x.tracker v = s.tracker v
  plain : ∀ st k, (e.kind, st, k) ∈ [(EntryKind.startGen, TState.genStart, UnitOrder.startGen),
      (.changeover, .changeover, .changeover)] →
    x.tracker e.unit = (s.tracker e.unit).enter s.now (s.unit e.unit) st none .noCause
      ∧ x.line = (s.placeOrder (.unit e.unit k)).line ∧ x.convs = s.convs
  pump : e.kind = .startPump → ∀ c, s.CanGrant e.unit c → (∀ j < c, ¬ s.CanGrant e.unit j) →
    x.tracker e.unit = (s.tracker e.unit).enter s.now (s.unit e.unit) .pumpSpin (some c) .noCause
      ∧ x.line = (s.placeOrder (.conv c (.attach e.unit))).line
      ∧ x.conv c = { s.conv c with
          state := .attaching e.unit, entryTime := s.now, cause := .noCause
          deadline := some (s.now + s.settings.attachTimeout) }
      ∧ ∀ j, j ≠ c → x.conv j = s.conv j
  unchanged : Unchanged [.trackers, .queue, .line, .convs] s x

/-! ## Management requests (chapter 9) -/

/-- A request that is refused with TABLE_WRITE_REFUSED and changes nothing else (R171). -/
def State.WriteRefused (s x : State) (station : Nat) : Prop :=
  x = s.detectAt .tableWriteRefused station
    ∧ (s.ownHasPlace →
      s.Records x (detection .tableWriteRefused station) ∧ Unchanged [.errors, .port] s x)

/-- A WRITE that passes its checks leaves the state `stored` and is answered OK; one that does not is answered
BAD_VALUE with TABLE_WRITE_REFUSED (R171, R173). -/
def State.TakesWrite (s t : State) (src : Byte) (req : BitVec 16) (station : Nat)
    (stored : Option State) : Prop :=
  (∀ x, stored = some x → x.Answers t src req (.ok []))
    ∧ (stored = none → ∃ x, s.WriteRefused x station ∧ x.Answers t src req .badValue)

/-! ## The SETTINGS record (R174, section 11.2) -/

/-- The fields of SETTINGS that take two bytes, by mask bit. -/
def wideSettings : List Nat := [3, 4, 5, 6, 7, 8, 9, 15, 16, 17, 18, 19]

/-- Sixteen bits as a number in two's complement (R190). -/
def asSigned (raw : Nat) : Int := if raw < 32768 then raw else raw - 65536

/-- The bytes of the written fields, in ascending bit order. -/
def settingsBody (mask : Nat) (raw : Nat → Nat) : List Byte :=
  (List.range 31).flatMap (fun i =>
    if mask.testBit i = false then [] else if i ∈ wideSettings then be16 (raw i) else [byteOf (raw i)])

/-- The number of those bytes. -/
def settingsLength (mask : Nat) : Nat :=
  ((List.range 31).map (fun i =>
    if mask.testBit i = false then 0 else if i ∈ wideSettings then 2 else 1)).sum

/-- The values of each field, by mask bit: the ranges of R174, which R13, R14, R30, R31, R33, R42, R43, R45, R47,
R70, R116, R125, R142, R161, R166, R168 and R181 give too. -/
def SettingTakes (i raw : Nat) : Prop :=
  match i with
  | 0 => 16 ≤ raw ∧ raw ≤ 254
  | 1 => raw = 1 ∨ raw = 2
  | 2 => raw ≤ 254
  | 3 => -30000 ≤ asSigned raw ∧ asSigned raw ≤ 0
  | 4 => 0 ≤ asSigned raw ∧ asSigned raw ≤ 30000
  | 5 => 1 ≤ raw ∧ raw ≤ 10
  | 6 => raw = 0 ∨ 5 ≤ raw ∧ raw ≤ 600
  | 7 => raw ≤ 20000
  | 8 => 1 ≤ raw ∧ raw ≤ 60
  | 9 => raw ≤ 500
  | 15 => raw = 0 ∨ 10 ≤ raw ∧ raw ≤ 3600
  | 16 => raw ≤ 6000
  | 17 => 1 ≤ raw ∧ raw ≤ 60
  | 18 => 1 ≤ raw ∧ raw ≤ 60
  | 19 => 5 ≤ raw ∧ raw ≤ 100
  | 20 => 1 ≤ raw ∧ raw ≤ 15
  | 21 => raw ≤ 3
  | 22 => raw ≤ 3
  | _ => raw ≤ 1

/-- The settings with every field whose mask bit is set at its written value and the others kept; a write-once
field uses its write (R174, R175). -/
def Settings.written (t : Settings) (mask : Nat) (raw : Nat → Nat) : Settings :=
  let num (i old : Nat) : Nat := if mask.testBit i then raw i else old
  let int (i : Nat) (old : Int) : Int := if mask.testBit i then asSigned (raw i) else old
  let flag (i : Nat) (old : Bool) : Bool := if mask.testBit i then raw i == 1 else old
  let action (i : Nat) (old : Action) : Action :=
    if mask.testBit i then ([Action.consume, .forward, .copy, .drop][raw i]?).getD old else old
  { stationAddr := num 0 t.stationAddr, stationUsed := t.stationUsed || mask.testBit 0
    fitted := num 1 t.fitted, fittedUsed := t.fittedUsed || mask.testBit 1
    dispatchAddr := num 2 t.dispatchAddr, plantMin := int 3 t.plantMin, plantMax := int 4 t.plantMax
    rampInterval := num 5 t.rampInterval, orderTimeout := num 6 t.orderTimeout
    designHead := num 7 t.designHead, headStaleTime := num 8 t.headStaleTime
    headDeadband := num 9 t.headDeadband
    policy := if mask.testBit 10 then (if raw 10 = 0 then .restart else .latch) else t.policy
    enAvailability := flag 11 t.enAvailability, enPin := flag 12 t.enPin, enHead := flag 13 t.enHead
    enPeriod := flag 14 t.enPeriod, resolvePeriod := num 15 t.resolvePeriod
    devThreshold := num 16 t.devThreshold, statusInterval := num 17 t.statusInterval
    attachTimeout := num 18 t.attachTimeout, pollTimeout := num 19 t.pollTimeout
    missLimit := num 20 t.missLimit, defaultU := action 21 t.defaultU, defaultD := action 22 t.defaultD
    senses := Vector.ofFn (fun u => if mask.testBit (23 + u.val) then
        (if raw (23 + u.val) = 0 then .level else .edge) else t.senses.get u) }

/-- The cross-field checks of a SETTINGS record (R30, R168). -/
def Settings.Consistent (t : Settings) : Prop :=
  t.plantMin ≤ t.plantMax ∧ (t.dispatchAddr = 0 ∨ t.dispatchAddr ≠ t.stationAddr)

/-- The checks of a PRESENT unit record (R2, R3). -/
def UnitRecord.Checked (r : UnitRecord) : Prop :=
  1 ≤ r.genMin ∧ r.genMin ≤ r.genMax ∧ r.genMax ≤ 6000
    ∧ 2 ≤ r.points.length ∧ r.points.length ≤ 6
    ∧ (∀ b ∈ r.points, b.h ≤ 20000 ∧ b.plo ≤ b.phi ∧ b.phi ≤ 6000
        ∧ (r.kind = .fixedSpeed → b.plo = b.phi))
    ∧ (r.points.map (fun b => b.h)).Pairwise (· < ·)
    ∧ (∀ d ∈ [r.genStartTime, r.spinTime, r.primeTime, r.changeoverTime, r.stopTime],
        10 ≤ d ∧ d ≤ 1800)
    ∧ r.minRun ≤ 3600 ∧ r.minRest ≤ 3600

/-- The checks of a classification entry whose fields stand in bytes (R159). -/
def ClassEntry.Checked (e : ClassEntry) : Prop :=
  e.destLo ≤ 255 ∧ e.destHi ≤ 255 ∧ e.exclLo ≤ 255 ∧ e.exclHi ≤ 255
    ∧ ∀ l, e.kinds = some l → l ≠ [] ∧ l.length ≤ 8 ∧ l.Nodup ∧ ∀ k ∈ l, k ≤ 255

/-! ## Safe states -/

/-- The four queues of frames and orders keep their sizes (R134, R136, R163, R164), at most one STATUS frame
waits (R166), and the start queue holds at most one entry for each machine (R108). -/
structure State.QueuesBounded (s : State) : Prop where
  own : s.port.own.length ≤ Config.ownQueueSize
  forwardUp : s.port.forwardUp.length ≤ Config.forwardQueueSize
  forwardDown : s.line.forwardDown.length ≤ Config.forwardQueueSize
  orders : (s.line.orders.map (fun q => q.order.station)).Nodup
  starts : (s.queue.map (fun e => e.unit)).Nodup
  status : (s.port.own.filter (fun x => x.frame.kind == kindCode .status)).length ≤ 1

/-- The six traffic counts stay within 0 to 65535 (R169, R184). -/
structure Traffic.Bounded (t : Traffic) : Prop where
  validU : t.validU ≤ Config.counterMax
  validD : t.validD ≤ Config.counterMax
  forwardedUp : t.forwardedUp ≤ Config.counterMax
  forwardedDown : t.forwardedDown ≤ Config.counterMax
  dropped : t.dropped ≤ Config.counterMax
  refreshed : t.refreshed ≤ Config.counterMax

/-- Every counter stays within 0 to 65535, and the ORDER_SOURCE count is never greater than the ORDER_REFUSED
counter unless that one has saturated (R184); the solver's two counts stay in range too (R62), and the
device time within 0 to 4294967295 (R189). -/
structure State.CountersBounded (s : State) : Prop where
  kinds : ∀ i : Fin 18, s.errors.counters.get i ≤ Config.counterMax
  orderSource : s.errors.orderSource ≤ Config.counterMax
  traffic : Traffic.Bounded s.port.traffic
  completed : s.solver.completed ≤ Config.counterMax
  discarded : s.solver.discarded ≤ Config.counterMax
  now : s.errors.now ≤ Config.timeMax
  sources : s.counter .orderRefused ≠ Config.counterMax → s.errors.orderSource ≤ s.counter .orderRefused

/-- The plant limits lie in their ranges and T_f and T_e within them (R30). -/
structure State.TargetsInLimits (s : State) : Prop where
  min : -30000 ≤ s.settings.plantMin ∧ s.settings.plantMin ≤ 0
  max : 0 ≤ s.settings.plantMax ∧ s.settings.plantMax ≤ 30000
  final : s.settings.plantMin ≤ s.target.tf ∧ s.target.tf ≤ s.settings.plantMax
  effective : s.settings.plantMin ≤ s.target.te ∧ s.target.te ≤ s.settings.plantMax

/-- Neither link idles while something waits for it: a free transmitter has both its queues empty (R165),
a free unit line has no order and no forwarded frame queued (R133). -/
structure State.LinksBusy (s : State) : Prop where
  port : s.port.tx = none → s.port.own = [] ∧ s.port.forwardUp = []
  line : s.line.activity = .idle → s.line.orders = [] ∧ s.line.forwardDown = []

/-- Outside REMOTE the part plans nothing: no start waits (R25), the solver is idle with its latches clear
and its timer stopped (R25, R43). A running ramp timer finds the authority REMOTE, the hold flag off, a
nonzero rate and T_e away from T_f (R31). Device reset processing is left out: nothing is taken during it
and the state it ends with is the reset state. -/
structure State.PlansOnlyInRemote (s : State) : Prop where
  starts : s.processing ≠ .deviceReset → s.isRemote = false → s.queue = []
  phase : s.processing ≠ .deviceReset → s.isRemote = false → s.solver.phase = .idle
  latches : s.processing ≠ .deviceReset → s.isRemote = false →
    s.solver.fullPending = false ∧ s.solver.loadPending = false
  timer : s.processing ≠ .deviceReset → s.isRemote = false → s.solver.resolveNext = none
  ramp : s.processing ≠ .deviceReset → s.target.rampNext ≠ none →
    s.isRemote = true ∧ s.target.holdFlag = false ∧ s.target.rate ≠ 0 ∧ s.target.te ≠ s.target.tf

/-- The fields of a tracker are set in the states that R81 and R103 name and in no other: the deadline in the
transitional states, the stop origin, one of the six of R81, in STOPPING, the granted converter in
PUMP_SPIN, the fault fields in FAULTED, the stamps and the pin in IDLE, GEN and PUMP. -/
structure Tracker.FitsItsState (t : Tracker) : Prop where
  deadline : t.deadline ≠ none ↔
    t.state ∈ [TState.genStart, .pumpSpin, .pumpPrime, .changeover, .stopping]
  stopOrigin : t.stopOrigin ≠ none ↔ t.state = .stopping
  origins : ∀ o, t.stopOrigin = some o →
    o ∈ [TState.gen, .pump, .genStart, .pumpSpin, .pumpPrime, .changeover]
  granted : t.granted ≠ none ↔ t.state = .pumpSpin
  faultCause : t.faultCause ≠ .noCause ↔ t.state = .faulted
  faultState : t.faultState ≠ none ↔ t.state = .faulted
  runSince : t.runSince ≠ none ↔ t.state = .gen ∨ t.state = .pump
  restSince : t.restSince ≠ none ↔ t.state = .idle
  pin : t.pin ≠ .noPin ↔ t.state ∈ [TState.idle, .gen, .pump]
  pinEnd : t.pinEnd ≠ none ↔ t.state ∈ [TState.idle, .gen, .pump]

/-- The fields of a converter record are set in the states that R117 names and in no other: the deadline in
ATTACHING and DETACHING, the fault cause in FAULTED. -/
structure ConvRecord.FitsItsState (r : ConvRecord) : Prop where
  deadline : r.deadline ≠ none ↔ ∃ u, r.state = .attaching u ∨ r.state = .detaching u
  cause : r.cause ≠ .noCause ↔ r.state = .faulted

/-- A converter is in ATTACHING or DRIVING for a machine (R117). -/
def State.Spins (s : State) (c : ConvId) (u : UnitId) : Prop :=
  (s.conv c).state = .attaching u ∨ (s.conv c).state = .driving u

/-- The records of trackers, start queue and converters agree: each fits its state (R81, R103, R117); a START
entry names an IDLE machine and a CHANGEOVER entry a PUMP machine (R108); converter 2 alone can be
ABSENT, and is while one converter is fitted (R116); and each converter in ATTACHING or DRIVING names a
machine in PUMP_SPIN that records it, and each machine in PUMP_SPIN is named by such a converter (R117),
by no other, since it records one. -/
structure State.RecordsAgree (s : State) : Prop where
  trackers : ∀ u, (s.tracker u).FitsItsState
  convs : ∀ c, (s.conv c).FitsItsState
  starts : ∀ e ∈ s.queue, (s.tracker e.unit).state = if e.kind = .changeover then .pump else .idle
  first : (s.conv 0).state ≠ .absent
  fitted : s.settings.fitted = 1 ∧ (s.conv 1).state = .absent
    ∨ s.settings.fitted = 2 ∧ s.settings.fittedUsed = true ∧ (s.conv 1).state ≠ .absent
  spun : ∀ c u, s.Spins c u → (s.tracker u).state = .pumpSpin ∧ (s.tracker u).granted = some c
  spinning : ∀ u, (s.tracker u).state = .pumpSpin → ∃ c, s.Spins c u

end Sys2Proof.Machine

namespace Sys2Proof

/-- The frame that a command brings on the unit line, for the commands that bring a whole frame there. -/
def Instr.lineFrame : Instr → Option Frame
  | .frameClassify .d dest src kind payload => some ⟨dest, src, kind, payload⟩
  | .target .d dest src payload => some ⟨dest, src, Machine.kindCode .target, payload⟩
  | .hold .d dest src payload => some ⟨dest, src, Machine.kindCode .hold, payload⟩
  | .admission .d dest src payload => some ⟨dest, src, Machine.kindCode .admission, payload⟩
  | .head .d dest src payload => some ⟨dest, src, Machine.kindCode .head, payload⟩
  | .unitReport dest src payload => some ⟨dest, src, Machine.kindCode .unitReport, payload⟩
  | .converterReport dest src payload => some ⟨dest, src, Machine.kindCode .converterReport, payload⟩
  | .nilReply dest src payload => some ⟨dest, src, Machine.kindCode .nil, payload⟩
  | _ => none

/-- The end of a reception that a command brings on the unit line: a frame, or none when the check fails
(R137, R138, R140). -/
def Instr.reception : Instr → Option (Option Frame)
  | .replyWindowReception bytes => some (Machine.parseFrame bytes)
  | .strayReception bytes => some (Machine.parseFrame bytes)
  | c => c.lineFrame.map some

/-- The requester and the number of a management request. -/
def Instr.sender : Instr → Option (Byte × BitVec 16)
  | .read src req _ _ => some (src, req)
  | .writeSettings src req _ => some (src, req)
  | .writeUnit src req _ _ => some (src, req)
  | .writeGroup src req _ _ => some (src, req)
  | .writeMerit _ src req _ => some (src, req)
  | .writeClass src req _ _ => some (src, req)
  | .writeSeverity src req _ _ => some (src, req)
  | .writeNotice src req _ => some (src, req)
  | .clearCounters src req => some (src, req)
  | .clearCapture src req => some (src, req)
  | .clearFlags src req => some (src, req)
  | .clearLine src req _ => some (src, req)
  | .solveNow src req => some (src, req)
  | .unitFaultClear src req _ => some (src, req)
  | .converterClear src req _ => some (src, req)
  | .estopClear src req => some (src, req)
  | .authoritySet src req _ => some (src, req)
  | .scanStart src req => some (src, req)
  | .scanStop src req => some (src, req)
  | .scanStep src req => some (src, req)
  | .scanConfig src req _ _ _ _ => some (src, req)
  | .lineReset src req => some (src, req)
  | .engineReset src req => some (src, req)
  | .deviceReset src req => some (src, req)
  | _ => none

/-- The frame that a command brings on the dispatch port, for the commands that bring a whole frame
there. -/
def Instr.dispatchFrame : Instr → Option Frame
  | .frameClassify .u dest src kind payload => some ⟨dest, src, kind, payload⟩
  | .target .u dest src payload => some ⟨dest, src, Machine.kindCode .target, payload⟩
  | .hold .u dest src payload => some ⟨dest, src, Machine.kindCode .hold, payload⟩
  | .admission .u dest src payload => some ⟨dest, src, Machine.kindCode .admission, payload⟩
  | .head .u dest src payload => some ⟨dest, src, Machine.kindCode .head, payload⟩
  | _ => none

end Sys2Proof
end

