-- ==== Sys2Proof/WellFormed.lean ====
section
/-! DEFINITION. Well-formed commands. A command is well formed when its operands can stand on the links:
a frame's payload fits the envelope, a check failure fails its check, and a frame row of a kind the
part takes is not written as FRAME_CLASSIFY. `exec` is total and also answers for ill-formed
commands, by what the bytes they carry mean. -/
namespace Sys2Proof

/-- A record fits behind the five-byte header of a MGMT_REQUEST (section 11.2). -/
def recordFits (record : List Byte) : Bool := record.length + 5 ≤ Config.maxPayload

/-- A payload fits the envelope (R190). -/
def payloadFits (payload : List Byte) : Bool := payload.length ≤ Config.maxPayload

/-- The kinds with a row of their own: a frame of one of them is not a FRAME_CLASSIFY command. -/
def kindHasRow (kind : Byte) : Bool :=
  [FrameKind.target, .hold, .admission, .head].any (fun k => Machine.kindCode k == kind)

/-- Well-formedness of a command. -/
def Instr.wellFormed : Instr → Bool
  | .uFrameCheck bytes => (Machine.parseFrame bytes).isNone
  | .frameClassify _ _ _ kind payload => payloadFits payload && !kindHasRow kind
  | .target _ _ _ payload => payloadFits payload
  | .hold _ _ _ payload => payloadFits payload
  | .admission _ _ _ payload => payloadFits payload
  | .head _ _ _ payload => payloadFits payload
  | .unitReport _ _ payload => payloadFits payload
  | .converterReport _ _ payload => payloadFits payload
  | .nilReply _ _ payload => payloadFits payload
  | .replyWindowReception bytes => !bytes.isEmpty
  | .strayReception bytes => !bytes.isEmpty
  | .receptionLimit => true
  | .replyWindowTimeout => true
  | .unitLineTxEnd => true
  | .pollTxEnd => true
  | .dispatchTxEnd => true
  | .rampStep => true
  | .orderStale => true
  | .headStale => true
  | .resolveTimerExpiry => true
  | .statusTimerExpiry => true
  | .transitionDeadline _ => true
  | .pinEnd _ => true
  | .converterDeadline _ => true
  | .fullSolveComplete => true
  | .loadSolveComplete => true
  | .engineResetEnd => true
  | .lineResetEnd => true
  | .deviceResetEnd => true
  | .resetPin => true
  | .tripLineAssert _ => true
  | .tripLineDeassert _ => true
  | .emergencyStopEdge => true
  | .localRemoteAssert => true
  | .localRemoteDeassert => true
  | .read _ _ _ _ => true
  | .writeSettings _ _ record => recordFits record
  | .writeUnit _ _ _ record => recordFits record
  | .writeGroup _ _ _ record => recordFits record
  | .writeMerit _ _ _ record => recordFits record
  | .writeClass _ _ _ record => recordFits record
  | .writeSeverity _ _ _ record => recordFits record
  | .writeNotice _ _ record => recordFits record
  | .clearCounters _ _ => true
  | .clearCapture _ _ => true
  | .clearFlags _ _ => true
  | .clearLine _ _ _ => true
  | .solveNow _ _ => true
  | .unitFaultClear _ _ _ => true
  | .converterClear _ _ _ => true
  | .estopClear _ _ => true
  | .authoritySet _ _ _ => true
  | .scanStart _ _ => true
  | .scanStop _ _ => true
  | .scanStep _ _ => true
  | .scanConfig _ _ _ _ _ _ => true
  | .lineReset _ _ => true
  | .engineReset _ _ => true
  | .deviceReset _ _ => true
  | .emergencyStopRelease => true
  | .receptionStart => true
  | .resetPinRelease => true
  | .deviceTimeTick => true

end Sys2Proof
end

