-- ==== Sys2Proof/Certificates/Slice0/Obligations.lean ====
section
/-! DEFINITION. The statements for the provers, each a proposition about the model. A docstring names the
rules of spec/ that a statement formalises, or the log entry when it states a choice of the model's. -/
section Statements
open Sys2Proof Sys2Proof.Machine Host

/-! ## The step and the commands as a whole -/

/-- A step takes the command at the front of the queue and runs it on the part with the queue's rest. -/
def Obligations.StepTakesTheFrontCommand : Prop :=
  ∀ (s : State) (c : Instr) (rest : List Instr), s.pending = c :: rest →
    step s = exec c (s.setPending rest)

/-- The model's choice (log entry 3). With no command waiting nothing but the unit line can move, and it
moves only when it is free; a free line with nothing queued and a scan that is not RUNNING stays as it is. -/
def Obligations.EmptyQueueLetsTheFreeLineChoose : Prop :=
  ∀ s : State, s.pending = [] → ∃ t, step s = .next t ∧ t = s.lineChoose ∧ Unchanged [.line] s t
    ∧ (s.line.activity ≠ .idle → t = s)
    ∧ (s.line.orders = [] → s.line.forwardDown = [] → s.line.scan ≠ .running → t = s)

/-- Every command completes in every state and leaves the queue of commands as it found it: no command
faults and none is refused. -/
def Obligations.EveryCommandCompletes : Prop :=
  ∀ (c : Instr) (s : State), ∃ t, exec c s = .next t ∧ t.pending = s.pending

/-! ## Reset and what every step keeps -/

/-- What device reset leaves in every block (R8, R10, R11, R13, R15, R20, R21, R36, R43, R45, R64, R78, R81, R106,
R115 to R117, R152, R159, R161, R163, R164, R166, R169, R174, R175, R181 to R189). The model's choices: every
line deasserted and the pin high (log entry 1), and the numbers of the empty last plan 0 (log entry 31). -/
def Obligations.ResetLeavesTheResetValues : Prop :=
  let s := State.reset
  -- settings
  (s.settings.stationAddr = 240 ∧ s.settings.stationUsed = false ∧ s.settings.fitted = 1
    ∧ s.settings.fittedUsed = false ∧ s.settings.dispatchAddr = 0 ∧ s.settings.plantMin = 0
    ∧ s.settings.plantMax = 0 ∧ s.settings.rampInterval = 1 ∧ s.settings.orderTimeout = 60
    ∧ s.settings.designHead = 0 ∧ s.settings.headStaleTime = 10 ∧ s.settings.headDeadband = 20
    ∧ s.settings.policy = .latch ∧ s.settings.enAvailability = true ∧ s.settings.enPin = true
    ∧ s.settings.enHead = true ∧ s.settings.enPeriod = true ∧ s.settings.resolvePeriod = 0
    ∧ s.settings.devThreshold = 100 ∧ s.settings.statusInterval = 2 ∧ s.settings.attachTimeout = 10
    ∧ s.settings.pollTimeout = 20 ∧ s.settings.missLimit = 3 ∧ s.settings.defaultU = .forward
    ∧ s.settings.defaultD = .forward ∧ ∀ u : UnitId, s.settings.senses.get u = .level)
  -- unit table
  ∧ (s.unconfigured = true ∧ (∀ u, s.unit u = none)
    ∧ (∀ g : GroupId, s.table.groups.get g = ⟨.notPermitted, true⟩) ∧ s.table.meritGen = []
    ∧ s.table.meritPump = [] ∧ s.table.head = 0 ∧ s.table.headValid = false
    ∧ s.table.headStale = false ∧ s.table.headRef = 0)
  -- target and ramp
  ∧ (s.authority = .localControl ∧ s.target.setting = .localControl ∧ s.target.estopLatch = false
    ∧ s.target.tf = 0 ∧ s.target.te = 0 ∧ s.target.rate = 0 ∧ s.target.rampNext = none
    ∧ s.target.holdFlag = false ∧ s.target.clamped = false ∧ s.target.staleOrder = false
    ∧ s.target.orderRef = 0)
  -- solver and loading
  ∧ (s.solver.phase = .idle ∧ s.solver.fullPending = false ∧ s.solver.loadPending = false
    ∧ s.solver.headRef = 0 ∧ s.solver.resolveNext = none ∧ s.solver.lastFullStart = none
    ∧ s.solver.completed = 0 ∧ s.solver.discarded = 0 ∧ s.solver.deviation = 0
    ∧ s.solver.plan.completedAt = none ∧ s.solver.plan.queue = []
    ∧ (∀ u : UnitId, s.solver.plan.rows.get u = ⟨.off, .unavailable, .none⟩)
    ∧ s.solver.plan.tf = 0 ∧ s.solver.plan.te = 0 ∧ s.solver.plan.head = 0 ∧ s.solver.plan.lo = 0
    ∧ s.solver.plan.hi = 0)
  -- trackers, start queue, converters
  ∧ (∀ u, let r := s.tracker u
    r.state = .unknown ∧ r.entryTime = 0 ∧ r.deadline = none ∧ r.stopOrigin = none ∧ r.granted = none
      ∧ r.faultCause = .noCause ∧ r.faultState = none ∧ r.rptMode = .atRest ∧ r.rptReady = false
      ∧ r.rptPower = 0 ∧ r.rptTime = 0 ∧ r.rptValid = false ∧ r.runSince = none ∧ r.restSince = none
      ∧ r.pin = .noPin ∧ r.pinEnd = none ∧ r.lastSent = none ∧ r.admitted = true)
  ∧ s.queue = []
  ∧ (∀ c, let r := s.conv c
    r.state = (if c = 0 then .unknown else .absent) ∧ r.entryTime = 0 ∧ r.deadline = none
      ∧ r.cause = .noCause ∧ r.rptMode = .idle ∧ r.rptUnit = 0 ∧ r.rptTime = 0 ∧ r.rptValid = false)
  -- unit line
  ∧ (s.line.orders = [] ∧ s.line.forwardDown = [] ∧ s.line.activity = .idle ∧ s.line.rx = none
    ∧ s.line.scan = .running ∧ s.line.stopPending = false ∧ s.line.stepCredit = false
    ∧ s.line.nextAddr = 1 ∧ (∀ i : Fin 15, s.line.misses.get i = 0) ∧ s.line.scanStart = 1
    ∧ s.line.scanEnd = 10 ∧ s.line.scanMode = .continuous ∧ s.line.protection = .protect)
  -- classifier and dispatch port
  ∧ (∀ k : ClassId, s.classes.get k = ⟨false, .u, 0, 0, 0, 0, none, .consume⟩)
  ∧ (s.port.own = [] ∧ s.port.forwardUp = [] ∧ s.port.tx = none ∧ s.port.statusNext = 2
    ∧ s.port.statusLast = 0 ∧ s.port.traffic = ⟨0, 0, 0, 0, 0, 0⟩)
  -- line inputs
  ∧ ((∀ u : UnitId, s.inputs.tripLevel.get u = false ∧ s.inputs.tripFlag.get u = false)
    ∧ s.inputs.estopLevel = false ∧ s.inputs.estopFlag = false ∧ s.inputs.localLevel = false
    ∧ s.inputs.localFlag = false ∧ s.inputs.resetPinLow = false)
  -- error monitor
  ∧ ((∀ i : Fin 18, s.errors.detected.get i = false ∧ s.errors.counters.get i = 0)
    ∧ s.errors.orderSource = 0
    ∧ (∀ k : ErrorKind, s.severityOf k =
        if k ∈ [ErrorKind.stationLost, .transitionTimeout, .converterFault, .orderStale, .unitTrip,
          .estop] then .major
        else if k ∈ [ErrorKind.uOwnOverflow, .forwardLoss, .reportMismatch, .orderRefused, .headStale,
          .deviation] then .minor
        else .advisory)
    ∧ s.errors.classFlags = ⟨false, false, false⟩ ∧ s.errors.notice.addr = 0
    ∧ s.errors.notice.enable = ⟨false, false, false⟩ ∧ s.errors.notice.code = ⟨1, 2, 3⟩
    ∧ s.errors.capture = none ∧ s.now = 0)
  -- no processing, nothing awaited, no command waiting
  ∧ s.processing = .none ∧ s.resetAwaiting = false ∧ s.pending = []

/-- The state after reset is a safe one. -/
def Obligations.ResetStateIsSafe : Prop :=
  State.reset.QueuesBounded ∧ State.reset.CountersBounded ∧ State.reset.TargetsInLimits
    ∧ State.reset.PlansOnlyInRemote ∧ State.reset.LinksBusy ∧ State.reset.RecordsAgree

/-- Every step keeps the sizes of the queues, the one place of each station and each machine in them, and at
most one STATUS frame waiting (R108, R134, R136, R163, R164, R166). -/
def Obligations.StepKeepsQueuesBounded : Prop :=
  ∀ s t : State, s.QueuesBounded → step s = .next t → t.QueuesBounded

/-- Every step keeps every counter within its range, and the ORDER_SOURCE count no greater than the
ORDER_REFUSED counter unless that one has saturated (R62, R169, R184, R189). -/
def Obligations.StepKeepsCountersBounded : Prop :=
  ∀ s t : State, s.CountersBounded → step s = .next t → t.CountersBounded

/-- Every step keeps T_f and T_e within the plant limits, and the limits in their ranges (R30). -/
def Obligations.StepKeepsTargetsInLimits : Prop :=
  ∀ s t : State, s.TargetsInLimits → step s = .next t → t.TargetsInLimits

/-- Every step leaves no free link with a frame or an order waiting for it (R133, R165). -/
def Obligations.StepKeepsLinksBusy : Prop :=
  ∀ s t : State, s.LinksBusy → step s = .next t → t.LinksBusy

/-- Every step keeps the part without plans outside REMOTE, and the ramp timer stopped whenever one of the
conditions of R31 fails (R25, R31, R38, R43, R45). -/
def Obligations.StepKeepsPlansOnlyInRemote : Prop :=
  ∀ s t : State, s.PlansOnlyInRemote → step s = .next t → t.PlansOnlyInRemote

/-- Every step keeps the records in agreement: a tracker's and a converter's fields set exactly in the states that
own them, such as the deadline in the transitional states (R81, R103, R117); each machine in PUMP_SPIN named
by exactly one converter in ATTACHING or DRIVING, and the reverse (R117); START entries for IDLE machines
and CHANGEOVER entries for PUMP machines (R108); converter 2 ABSENT while one is fitted (R116). -/
def Obligations.StepKeepsRecordsAgree : Prop :=
  ∀ s t : State, s.RecordsAgree → step s = .next t → t.RecordsAgree

/-! ## Frames and records as bytes -/

/-- A frame's bytes read back as the frame, and only the bytes of a frame read as one: destination, source,
kind, length, payload and check in their order, with no bit left over (R190). -/
def Obligations.FrameReadsBack : Prop :=
  (∀ f : Frame, f.payload.length ≤ Config.maxPayload → parseFrame (frameBytes f) = some f)
    ∧ ∀ (b : List Byte) (f : Frame), parseFrame b = some f →
      f.payload.length ≤ Config.maxPayload ∧ b = frameBytes f

/-- A WRITE takes the record that a READ of the same value returns, when that value passes the checks of its rule, and
no other record (R2, R3, R7, R9 to R11, R159, R171, R172, R185, R186, section 11.2): the checks of a unit record, no
machine twice in a merit list and none outside 1 to 8, 1 to 8 distinct kind codes, a notice address that is not the
station's. Any other bytes are BAD_VALUE, a reach byte above 3 too (log entry 30). A clearing write of UNIT has the
length of the presence or of a whole record (log entry 17). -/
def Obligations.RecordsReadBackAsWritten : Prop :=
  (∀ r : UnitRecord, r.valid = true ↔ r.Checked)
    ∧ (∀ (record : List Byte) (r : UnitRecord),
        readUnit record = some (some r) ↔ record = unitBytes (some r) ∧ r.Checked)
    ∧ (∀ record : List Byte, readUnit record = some none ↔ record = [0] ∨ ∃ fields count rest,
        record = 0 :: fields ++ count :: rest ∧ fields.length = 6 ∧ rest.length = 16 + 6 * count.toNat)
    ∧ (∀ (record : List Byte) (g : GroupRecord), readGroup record = some g ↔ record = g.bytes)
    ∧ (∀ (record : List Byte) (l : List UnitId), readMerit record = some l ↔ record = meritBytes l ∧ l.Nodup)
    ∧ (∀ (record : List Byte) (e : ClassEntry), readClass record = some e ↔ record = e.bytes ∧ e.Checked)
    ∧ (∀ (record : List Byte) (v : Severity), readSeverity record = some v ↔ record = [byteOf (severityCode v)])
    ∧ (∀ (station : Nat) (record : List Byte) (n : NoticeSettings), readNotice station record = some n ↔
        record = n.bytes ∧ n.addr ≤ 254 ∧ (n.addr = 0 ∨ n.addr ≠ station) ∧ n.code.advisory ≤ 255
          ∧ n.code.minor ≤ 255 ∧ n.code.major ≤ 255)

/-- The frames that the part itself makes for the dispatch network (R167, R170, R187, section 11.2): STATUS, its 47
bytes field by field; ALARM, its 9 bytes; MGMT_REPLY, the echoed number, code, reason and object. A field of
two or four bytes holds its value, most significant byte first, a signed one in two's complement (R190). -/
def Obligations.FramesOfThePartAreLaidOut : Prop :=
  (∀ n : Nat, n ≤ 65535 → ∃ b1 b0, be16 n = [b1, b0] ∧ b1.toNat * 256 + b0.toNat = n)
  ∧ (∀ n : Nat, n ≤ 4294967295 → ∃ b3 b2 b1 b0, be32 n = [b3, b2, b1, b0]
      ∧ ((b3.toNat * 256 + b2.toNat) * 256 + b1.toNat) * 256 + b0.toNat = n)
  ∧ (∀ i : Int, -32768 ≤ i → i ≤ 32767 → beInt16 i = be16 (i % 65536).toNat)
  ∧ (∀ i : Int, -2147483648 ≤ i → i ≤ 2147483647 → beInt32 i = be32 (i % 4294967296).toNat)
  ∧ (∀ s : State, ∃ payload flags classes,
      s.statusFrame = ⟨byteOf s.settings.dispatchAddr, byteOf s.settings.stationAddr, 32, payload⟩
      ∧ payload.length = 47
      ∧ (let field (offset width : Nat) : List Byte := (payload.drop offset).take width
        field 0 4 = be32 s.now
        ∧ field 4 1 = (match s.authority with
          | .remote => [0]
          | .localControl => [1]
          | .estop => [2])
        ∧ field 5 2 = beInt16 s.target.tf ∧ field 7 2 = beInt16 s.target.te
        ∧ field 9 4 = beInt32 (allUnits.map (fun u =>
            if (s.tracker u).rptValid = true then (s.tracker u).rptPower else 0)).sum
        ∧ field 13 4 = beInt32 s.solver.deviation ∧ field 17 2 = be16 s.table.head
        ∧ field 19 2 = [flags, classes]
        ∧ (∀ u, ∃ code : Byte, field (21 + 3 * u.val) 3 = code ::
              beInt16 (if (s.tracker u).rptValid = true then (s.tracker u).rptPower else 0)
            ∧ [TState.unknown, .idle, .notReady, .genStart, .gen, .pumpSpin, .pumpPrime, .pump,
                .changeover, .stopping, .observed, .faulted, .lost][code.toNat]? = some (s.tracker u).state)
        ∧ ∀ c, field (45 + c.val) 1 = (match (s.conv c).state with
          | .absent => [0]
          | .unknown => [1]
          | .free => [2]
          | .attaching _ => [3]
          | .driving _ => [4]
          | .detaching _ => [5]
          | .observed _ => [6]
          | .faulted => [7]
          | .lost => [8]))
      ∧ flags.getLsbD 0 = s.target.staleOrder ∧ flags.getLsbD 1 = s.table.headStale
      ∧ flags.getLsbD 2 = s.target.clamped ∧ flags.getLsbD 3 = s.target.holdFlag
      ∧ flags.getLsbD 4 = s.unconfigured ∧ flags.toNat < 32 ∧ classes.toNat < 8
      ∧ classes.getLsbD 0 = s.errors.classFlags.advisory
      ∧ classes.getLsbD 1 = s.errors.classFlags.minor ∧ classes.getLsbD 2 = s.errors.classFlags.major)
  ∧ (∀ (s : State) (d : Detection),
      let code (advisory minor major : Nat) : Byte := match s.severityOf d.kind with
        | .advisory => byteOf advisory
        | .minor => byteOf minor
        | .major => byteOf major
      let n := s.errors.notice
      s.alarmFrame d = ⟨byteOf n.addr, byteOf s.settings.stationAddr, 33,
        [code 0 1 2, code n.code.advisory n.code.minor n.code.major, byteOf (kindNumber d.kind),
          if d.sub = .orderSource then 1 else 0, byteOf d.station] ++ be32 s.now⟩)
  ∧ ∀ (s : State) (src req : Nat) (r : Reply),
      s.replyFrame src req r = ⟨byteOf src, byteOf s.settings.stationAddr, 35, be16 req ++ match r with
        | .ok object => [0, 0] ++ object
        | .badObject => [1, 0]
        | .badIndex => [2, 0]
        | .badValue => [3, 0]
        | .writeOnce => [4, 0]
        | .refused .none => [5, 0]
        | .refused .notAtRest => [5, 1]
        | .refused .lineAsserted => [5, 2]
        | .refused .inUse => [5, 3]
        | .refused .notRemote => [5, 4]
        | .busy => [6, 0]⟩

/-- What a READ returns, object by object (R7, R9, R11, R62, R81, R108, R117, R153, R159, R172, R174, R180, R182, R184
to R186, R188, section 11.2): the fields in their order, each in its width, a field that may hold none behind its
mark, and a list behind its count; an ABSENT unit record has every field zero. STATUS stands in
FramesOfThePartAreLaidOut. Codes and widths that section 11.2 leaves to its general rules: log entry 15, and for the
DESCRIPTOR record log entry 29. The bits of a recorded time past the greatest device time are open (log entry 2). -/
def Obligations.ReadRepliesAreLaidOut : Prop :=
  let time (t : Time) : List Byte :=
    if t ≤ 4294967295 then be32 t else be32 (Config.lateTimeBits t).toNat
  let byte (n : Nat) : List Byte := [byteOf n]
  let flag (b : Bool) : List Byte := if b then [1] else [0]
  let none8 (width : Nat) : List Byte := 0 :: List.replicate width 0
  let times (enc : Time → List Byte) (x : Option Time) : List Byte := x.elim (none8 4) (fun t => 1 :: enc t)
  let bytes (x : Option Nat) : List Byte := x.elim (none8 1) (fun n => [1, byteOf n])
  let words (x : Option Nat) : List Byte := x.elim (none8 2) (fun n => 1 :: be16 n)
  let tstate (t : TState) : Nat := [TState.unknown, .idle, .notReady, .genStart, .gen, .pumpSpin,
    .pumpPrime, .pump, .changeover, .stopping, .observed, .faulted, .lost].idxOf t
  let origin (t : TState) : Nat := [TState.gen, .pump, .genStart, .pumpSpin, .pumpPrime, .changeover].idxOf t
  let entries (l : List Entry) : List Byte := byteOf l.length :: l.flatMap (fun e =>
    byte (unitNumber e.unit) ++ byte ([EntryKind.startGen, .startPump, .changeover].idxOf e.kind)
      ++ be32 e.enqueued ++ byte ([HoldReason.new, .interlock, .noConverter].idxOf e.reason)
      ++ bytes (e.blocking.map unitNumber))
  let action (a : Action) : List Byte := byte ([Action.consume, .forward, .copy, .drop].idxOf a)
  let permission (p : Permission) : List Byte := byte ([Permission.permitted, .notPermitted].idxOf p)
  unitBytes none = List.replicate 24 0
  ∧ (∀ r : UnitRecord, unitBytes (some r) = [1] ++ byte ([UnitKind.fixedSpeed, .variableSpeed].idxOf r.kind)
    ++ byte (groupNumber r.group) ++ be16 r.genMin ++ be16 r.genMax ++ byte r.points.length
    ++ r.points.flatMap (fun b => be16 b.h ++ be16 b.plo ++ be16 b.phi)
    ++ byte ((if r.reach1 then 1 else 0) + (if r.reach2 then 2 else 0)) ++ be16 r.genStartTime
    ++ be16 r.spinTime ++ be16 r.primeTime ++ be16 r.changeoverTime ++ be16 r.stopTime ++ be16 r.minRun
    ++ be16 r.minRest ++ permission r.changeover)
  ∧ (∀ g : GroupRecord, g.bytes = permission g.shortCircuit ++ flag (!g.interlock))
  ∧ (∀ l : List UnitId, meritBytes l = byte l.length ++ l.flatMap (fun u => byte (unitNumber u)))
  ∧ (∀ e : ClassEntry, e.bytes = flag (!e.inUse) ++ byte ([EntryPort.u, .d, .any].idxOf e.port) ++ byte e.destLo
    ++ byte e.destHi ++ byte e.exclLo ++ byte e.exclHi ++ (match e.kinds with
      | none => [0]
      | some l => byte l.length ++ l.flatMap byte)
    ++ action e.action)
  ∧ (∀ v : Severity, severityCode v = [Severity.advisory, .minor, .major].idxOf v)
  ∧ (∀ n : NoticeSettings, n.bytes = byte n.addr ++ flag n.enable.advisory ++ flag n.enable.minor
    ++ flag n.enable.major ++ byte n.code.advisory ++ byte n.code.minor ++ byte n.code.major)
  ∧ (∀ r : Tracker, r.bytes = byte (tstate r.state) ++ be32 r.entryTime ++ times time r.deadline
    ++ bytes (r.stopOrigin.map origin) ++ bytes (r.granted.map convNumber)
    ++ byte ([FaultCause.noCause, .unitTrip, .tripLine, .transitionTimeout].idxOf r.faultCause)
    ++ bytes (r.faultState.map tstate)
    ++ byte ([UnitMode.atRest, .genSeq, .runningGen, .pumpSeqSpin, .synchronized, .priming, .runningPump,
        .changeoverSeq, .stopSeq, .tripped].idxOf r.rptMode)
    ++ flag r.rptReady ++ beInt16 r.rptPower ++ be32 r.rptTime ++ flag r.rptValid
    ++ times be32 r.runSince ++ times be32 r.restSince
    ++ byte ([PinState.noPin, .pinned, .served].idxOf r.pin) ++ times time r.pinEnd ++ words r.lastSent
    ++ flag (!r.admitted))
  ∧ (∀ r : ConvRecord,
    let named : Nat × Option UnitId := match r.state with
      | .absent => (0, none)
      | .unknown => (1, none)
      | .free => (2, none)
      | .attaching u => (3, some u)
      | .driving u => (4, some u)
      | .detaching u => (5, some u)
      | .observed u => (6, some u)
      | .faulted => (7, none)
      | .lost => (8, none)
    r.bytes = byte named.1 ++ bytes (named.2.map unitNumber) ++ be32 r.entryTime ++ times time r.deadline
      ++ byte ([ConvCause.noCause, .reported, .attachTimeout, .detachTimeout, .wrongUnit,
          .dropped].idxOf r.cause)
      ++ byte ([ConvMode.idle, .attached, .driving, .fault].idxOf r.rptMode) ++ byte r.rptUnit
      ++ be32 r.rptTime ++ flag r.rptValid)
  ∧ (∀ s : State, let c := s.port.traffic
    s.counterBytes = s.errors.counters.toList.flatMap be16 ++ be16 s.errors.orderSource ++ be16 c.validU
      ++ be16 c.validD ++ be16 c.forwardedUp ++ be16 c.forwardedDown ++ be16 c.dropped
      ++ be16 c.refreshed)
  ∧ (∀ s : State, ∃ classes : Byte, s.flagBytes = s.errors.detected.toList.flatMap flag ++ [classes]
    ∧ (s.statusFrame.payload.drop 20).take 1 = [classes])
  ∧ (∀ s : State, s.captureBytes = (match s.errors.capture with
      | none => none8 7
      | some c => 1 :: byteOf (kindNumber c.detection.kind)
          :: (if c.detection.sub = .orderSource then 1 else 0) :: byteOf c.detection.station
          :: be32 c.time) ++ be32 s.now)
  ∧ (∀ (s : State) (u : UnitId), s.lineInputBytes (unitNumber u) = some (flag (s.inputs.tripLevel.get u)
        ++ flag (s.settings.senses.get u == .edge) ++ flag (s.inputs.tripFlag.get u))
      ∧ s.lineInputBytes 9 = some (flag s.inputs.estopLevel ++ [1] ++ flag s.inputs.estopFlag)
      ∧ s.lineInputBytes 10 = some (flag s.inputs.localLevel ++ [0] ++ flag s.inputs.localFlag))
  ∧ (∀ s : State,
    let groups := allGroups.filter (fun g => (s.table.groups.get g).shortCircuit == .permitted)
    s.descriptorBytes 1 = some ([1, 0] ++ be16 917 ++ be16 612 ++ be16 2 ++ [2])
      ∧ s.descriptorBytes 2 = some ([2, 1] ++ byte s.settings.stationAddr ++ be32 115200 ++ be32 57600
          ++ [15, 8, 16, 16, 10, 16, 3])
      ∧ s.descriptorBytes 3 = some ([3, 2, 8, 4] ++ byte s.settings.fitted
          ++ [8, if groups = [] then 0 else 4])
      ∧ s.descriptorBytes 4 = (if groups = [] then none else some
          ([4, 3] ++ byteOf groups.length :: groups.map (fun g => byteOf (groupNumber g)) ++ [0])))
  ∧ (∀ s : State, let t := s.settings
    s.settingsBytes = byte t.stationAddr ++ byte t.fitted ++ byte t.dispatchAddr ++ beInt16 t.plantMin
      ++ beInt16 t.plantMax ++ be16 t.rampInterval ++ be16 t.orderTimeout ++ be16 t.designHead
      ++ be16 t.headStaleTime ++ be16 t.headDeadband ++ flag (t.policy == .latch) ++ flag t.enAvailability
      ++ flag t.enPin ++ flag t.enHead ++ flag t.enPeriod ++ be16 t.resolvePeriod ++ be16 t.devThreshold
      ++ be16 t.statusInterval ++ be16 t.attachTimeout ++ be16 t.pollTimeout ++ byte t.missLimit
      ++ action t.defaultU ++ action t.defaultD
      ++ allUnits.flatMap (fun u => flag (t.senses.get u == .edge))
      ++ flag t.stationUsed ++ flag t.fittedUsed ++ flag (s.target.setting == .localControl)
      ++ byte s.line.scanStart ++ byte s.line.scanEnd
      ++ byte ([ScanMode.continuous, .single, .step].idxOf s.line.scanMode)
      ++ flag (s.line.protection == .overwrite))
  ∧ ∀ s : State, let v := s.solver
    let l := s.line
    s.queueBytes = byte (match v.phase with
        | .idle => 0
        | .full _ => 1
        | .load _ => 2)
      ++ flag v.fullPending ++ flag v.loadPending ++ be16 v.headRef
      ++ times be32 v.plan.completedAt ++ beInt16 v.plan.tf ++ beInt16 v.plan.te ++ be16 v.plan.head
      ++ beInt32 v.plan.lo ++ beInt32 v.plan.hi
      ++ allUnits.flatMap (fun u => let row := v.plan.rows.get u
          [byteOf ([Cls.gen, .pump, .off].idxOf row.desired),
            byteOf ([Basis.pinned, .unavailable, .addedSteady, .addedIdle, .addedShortCircuit, .removed,
              .notAdded].idxOf row.basis),
            byteOf ([DiffAction.none, .withdraw, .stop, .startGen, .startPump, .changeover, .keep,
              .leftOut].idxOf row.action)])
      ++ entries v.plan.queue ++ be16 v.completed ++ be16 v.discarded ++ entries s.queue
      ++ byteOf l.orders.length :: l.orders.flatMap (fun q =>
          byte q.order.station ++ [kindCode q.order.kind] ++ words q.order.argument ++ be32 q.queuedAt)
      ++ byte l.forwardDown.length ++ byte ([ScanState.running, .paused, .stopped].idxOf l.scan)
      ++ flag l.stopPending ++ flag l.stepCredit ++ byte l.nextAddr
      ++ bytes (match l.activity with
          | .sending (.poll a _) _ => some a
          | .window a _ _ _ => some a
          | _ => none)
      ++ l.misses.toList.map byteOf ++ byte s.port.forwardUp.length ++ byte s.port.own.length
      ++ byte (s.port.own.filter (fun x => x.frame.kind == kindCode .status)).length

/-! ## Detections -/

/-- A detection that finds the own queue full (R164, R183, R187, R188): its five steps are taken, and the ALARM
that it raises is dropped, which is a detection of U_OWN_OVERFLOW in its turn. That one may raise an ALARM
of its own class, dropped like the first; its class flag is set then, and the chain ends. -/
def Obligations.FullOwnQueueDropsNotices : Prop :=
  ∀ (s : State) (d : Detection), Config.ownQueueSize ≤ s.port.own.length →
    let noted (x : State) (e : Detection) : State := x.setErrors { x.errors with
      detected := upd x.errors.detected (kindIndex e.kind) true
      counters := upd x.errors.counters (kindIndex e.kind) (satInc (x.counter e.kind))
      orderSource := if e.kind = .orderRefused ∧ e.sub = .orderSource then satInc x.errors.orderSource
        else x.errors.orderSource
      classFlags := setClass x.errors.classFlags (x.severityOf e.kind) true
      capture := if x.severityOf e.kind = .major ∧ x.errors.capture = none then some ⟨e, x.now⟩
        else x.errors.capture }
    let raises (x : State) (e : Detection) : Prop := perClass x.errors.classFlags (x.severityOf e.kind) = false
      ∧ perClass x.errors.notice.enable (x.severityOf e.kind) = true ∧ x.errors.notice.addr ≠ 0
    let lost := detection .uOwnOverflow 0
    (¬ raises s d → s.detect d = noted s d)
      ∧ (raises s d → ¬ raises (noted s d) lost → s.detect d = noted (noted s d) lost)
      ∧ (raises s d → raises (noted s d) lost → s.detect d = noted (noted (noted s d) lost) lost)

/-! ## Frames on the dispatch port -/

/-- A reception on the dispatch port is a frame when its bytes are one, and is then classified; otherwise
it is discarded, and U_FRAME_CHECK at station 0 is all that it does (R154). During device reset processing
no reception is taken (R179). -/
def Obligations.DispatchReceptionIsAFrameOrACheckFailure : Prop :=
  ∀ (s : State) (bytes : List Byte),
    (s.processing = .deviceReset → exec (.uFrameCheck bytes) s = .next s)
      ∧ (∀ f, parseFrame bytes = some f →
          exec (.uFrameCheck bytes) s = exec (.frameClassify .u f.dest f.src f.kind f.payload) s)
      ∧ (s.processing ≠ .deviceReset → parseFrame bytes = none → s.ownHasPlace →
          ∃ t, exec (.uFrameCheck bytes) s = .next t ∧ s.Records t (detection .uFrameCheck 0)
            ∧ Unchanged [.errors, .port] s t)

/-- A frame that fits the envelope is counted as received on port U and routed by the first step of R155
that applies (R155 to R157, R160, R161). The actions (R162, R169): FORWARD forwards; COPY consumes, then
forwards (as a broadcast; log entry 18); DROP adds one to the drop count; CONSUME hands the plant kinds to
their owners, as a broadcast and a frame for the part do, from either port alike, refuses a MGMT_REQUEST with
ORDER_REFUSED and discards any other kind with FRAME_KIND_UNKNOWN, at station 0 on port U and at the
frame's source on port D. -/
def Obligations.DispatchFrameIsRouted : Prop :=
  (∀ (c : Instr) (f : Frame) (s : State), c.dispatchFrame = some f → s.processing ≠ .deviceReset →
    f.payload.length ≤ Config.maxPayload →
      ∃ t, exec c s = .next t ∧ s.counted.Routes t .u f
        ∧ s.counted.port.traffic = { s.port.traffic with validU := satInc s.port.traffic.validU })
  ∧ ∀ (x : State) (p : Port) (f : Frame),
    let index := if p = .u then 0 else f.src.toNat
    let plant := f.kind ∈ [kindCode .target, kindCode .hold, kindCode .admission, kindCode .head]
    let consumed := x.actOn p f .consume
    x.actOn p f .forward = x.forwardFrame p f
      ∧ x.actOn p f .copy = consumed.forwardFrame p f
      ∧ x.actOn p f .drop = x.setPort { x.port with traffic :=
          { x.port.traffic with dropped := satInc x.port.traffic.dropped } }
      ∧ (x.ownHasPlace → f.kind = kindCode .mgmtRequest →
          x.Records consumed (detection .orderRefused index) ∧ Unchanged [.errors, .port] x consumed)
      ∧ (x.ownHasPlace → ¬ plant → f.kind ≠ kindCode .mgmtRequest →
          x.Records consumed (detection .frameKindUnknown index)
            ∧ Unchanged [.errors, .port] x consumed)
      ∧ (∀ others : State → State, (plant → x.consumeOwned p f others = consumed)
          ∧ (¬ plant → x.consumeOwned p f others = others x))
      ∧ (f.kind = kindCode .hold ∧ holdField f.payload ≠ none ∧ x.acceptsOrders f.src
          ∨ f.kind = kindCode .admission ∧ admitFields f.payload ≠ none ∧ x.acceptsOrders f.src
          ∨ f.kind = kindCode .head ∧ headFields f.payload ≠ none → consumed = x.actOn .u f .consume)

/-- A forwarded frame joins the tail of its queue and is counted, and a free line chooses; a queue of 16
loses a frame with FORWARD_LOSS. Down, the new frame is lost, at station 0 (R136, R162, R169). Up, it
is the new frame under PROTECT and the oldest one under OVERWRITE, at the new frame's source (R150,
R163, R169). A free transmitter chooses at once: the oldest own frame, else the oldest forwarded one, whose
departure resumes a PAUSED scan (R149, R165); a full queue finds it busy, by the invariant of StepKeepsLinksBusy. -/
def Obligations.ForwardedFramesQueueOrAreLost : Prop :=
  ∀ (s : State) (f : Frame),
    (s.line.forwardDown.length < 16 →
      (s.forwardFrame .u f).line
          = (s.setLine { s.line with forwardDown := s.line.forwardDown ++ [f] }).lineChoose.line
        ∧ (s.forwardFrame .u f).port = { s.port with traffic :=
            { s.port.traffic with forwardedDown := satInc s.port.traffic.forwardedDown } }
        ∧ Unchanged [.line, .port] s (s.forwardFrame .u f))
    ∧ (16 ≤ s.line.forwardDown.length → s.ownHasPlace →
      s.Records (s.forwardFrame .u f) (detection .forwardLoss 0)
        ∧ Unchanged [.errors, .port] s (s.forwardFrame .u f))
    ∧ (let joined (waiting : List Frame) : DispatchPort := { s.port with
        forwardUp := waiting ++ [f]
        traffic := { s.port.traffic with forwardedUp := satInc s.port.traffic.forwardedUp } }
      (s.port.forwardUp.length < 16 →
        let t := s.forwardFrame .d f
        (s.port.tx ≠ none → t = s.setPort (joined s.port.forwardUp))
        ∧ (s.port.tx = none → ∀ o rest, s.port.own = o :: rest →
            t = s.setPort { joined s.port.forwardUp with own := rest, tx := some o })
        ∧ (s.port.tx = none → s.port.own = [] → ∀ g rest, s.port.forwardUp ++ [f] = g :: rest →
            t.port = { joined s.port.forwardUp with forwardUp := rest, tx := some ⟨g, false⟩ }
              ∧ (s.line.scan ≠ .paused → Unchanged [.port] s t)
              ∧ (s.line.scan = .paused → Unchanged [.port, .line] s t ∧ t.line =
                  ((s.setPort t.port).setLine { s.line with scan := .running }).lineChoose.line)))
      ∧ (s.port.tx ≠ none → 16 ≤ s.port.forwardUp.length → s.line.protection = .protect → s.ownHasPlace →
        s.Records (s.forwardFrame .d f) (detection .forwardLoss f.src.toNat)
          ∧ Unchanged [.errors, .port] s (s.forwardFrame .d f))
      ∧ (s.port.tx ≠ none → 16 ≤ s.port.forwardUp.length → s.line.protection = .overwrite → s.ownHasPlace →
        (s.setPort (joined s.port.forwardUp.tail)).Records (s.forwardFrame .d f)
            (detection .forwardLoss f.src.toNat)
          ∧ Unchanged [.errors, .port] s (s.forwardFrame .d f)))

/-! ## Plant orders and the head -/

/-- Plant frames that are not taken. One of the four plant kinds with a payload of a wrong length or a field out
of range is discarded with FRAME_KIND_UNKNOWN (R191, section 11.2). A well-formed plant order from another
source than the dispatch-centre address, or while that is 0, or outside REMOTE, changes nothing and records
ORDER_REFUSED, in the first two cases with sub-cause ORDER_SOURCE (R26). The station index is 0 on port U and
the frame's source on port D (R162, R191), for an order refused there as a broadcast by the model's choice (log
entry 27). -/
def Obligations.BadPlantFramesChangeNothing : Prop :=
  let malformed (k : FrameKind) (p : List Byte) : Prop :=
    k = .target ∧ (p.length ≠ 4 ∨ ∃ a b r1 r0, p = [a, b, r1, r0] ∧ 9999 < nat16 r1 r0)
      ∨ k = .hold ∧ (p.length ≠ 1 ∨ ∃ b, p = [b] ∧ 1 < b.toNat)
      ∨ k = .admission
        ∧ (p.length ≠ 2 ∨ ∃ m b, p = [m, b] ∧ (m.toNat = 0 ∨ 8 < m.toNat ∨ 1 < b.toNat))
      ∨ k = .head ∧ (p.length ≠ 4
        ∨ ∃ u1 u0 l1 l0, p = [u1, u0, l1, l0] ∧ (30000 < nat16 u1 u0 ∨ 30000 < nat16 l1 l0))
  let order (k : FrameKind) (p : List Byte) : Prop := k ≠ .head ∧ ∃ a b d e,
    k = .target ∧ p = [a, b, d, e] ∧ nat16 d e ≤ 9999 ∨ k = .hold ∧ p = [a] ∧ a.toNat ≤ 1
      ∨ k = .admission ∧ p = [a, b] ∧ 1 ≤ a.toNat ∧ a.toNat ≤ 8 ∧ b.toNat ≤ 1
  let sub (s : State) (src : Byte) : SubCause :=
    if s.settings.dispatchAddr = 0 ∨ src.toNat ≠ s.settings.dispatchAddr then .orderSource else .none
  (∀ (s : State) (dest src : Byte) (k : FrameKind) (p : List Byte) (c : Instr),
    c = .target .u dest src p ∧ k = .target ∨ c = .hold .u dest src p ∧ k = .hold
      ∨ c = .admission .u dest src p ∧ k = .admission ∨ c = .head .u dest src p ∧ k = .head →
    s.hears dest p → s.ownHasPlace →
      (malformed k p → ∃ t, exec c s = .next t ∧ s.counted.Records t (detection .frameKindUnknown 0)
        ∧ Unchanged [.errors, .port] s.counted t)
      ∧ (order k p → ¬ s.acceptsOrders src → ∃ t, exec c s = .next t
        ∧ s.counted.Records t ⟨.orderRefused, 0, sub s src⟩ ∧ Unchanged [.errors, .port] s.counted t))
  ∧ ∀ (x : State) (p : Port) (f : Frame) (k : FrameKind), f.kind = kindCode k → x.ownHasPlace →
    let index := if p = .u then 0 else f.src.toNat
    let t := x.actOn p f .consume
    (malformed k f.payload → x.Records t (detection .frameKindUnknown index)
        ∧ Unchanged [.errors, .port] x t)
      ∧ (order k f.payload → ¬ x.acceptsOrders f.src →
        x.Records t ⟨.orderRefused, index, sub x f.src⟩ ∧ Unchanged [.errors, .port] x t)

/-- An accepted TARGET (R27): the order is clamped into T_f, a rate of 0 with the hold off moves T_e with it,
the ramp timer runs on, starts or stops, and the solver gets a full trigger when T_f changed, else a
load-only one when T_e changed. Only a clamped order is recorded. A TARGET consumed from port D does the
same, and records a clamped order at its source (R162; for a broadcast, log entry 27). -/
def Obligations.TargetIsTaken : Prop :=
  (∀ (s : State) (dest src t1 t0 r1 r0 : Byte), s.hears dest [t1, t0, r1, r0] → s.acceptsOrders src →
    s.ownHasPlace → nat16 r1 r0 ≤ 9999 → s.settings.plantMin ≤ s.settings.plantMax →
      let tf := max s.settings.plantMin (min s.settings.plantMax (int16 t1 t0))
      let te := if nat16 r1 r0 = 0 ∧ s.target.holdFlag = false then tf else s.target.te
      ∃ t, exec (.target .u dest src [t1, t0, r1, r0]) s = .next t
        ∧ t.target = { s.target with
            tf := tf, te := te, rate := nat16 r1 r0, clamped := decide (tf ≠ int16 t1 t0)
            orderRef := s.now, staleOrder := false
            rampNext := if s.target.holdFlag = true ∨ nat16 r1 r0 = 0 ∨ te = tf then none
              else some (s.target.rampNext.getD (s.now + s.settings.rampInterval)) }
        ∧ (tf ≠ s.target.tf → t.solver = ((s.setTarget t.target).fullTrigger .target).solver)
        ∧ (tf = s.target.tf → te ≠ s.target.te → t.solver = (s.setTarget t.target).loadTrigger.solver)
        ∧ (tf = s.target.tf → te = s.target.te → t.solver = s.solver)
        ∧ (tf ≠ int16 t1 t0 → s.counted.Records t (detection .targetClamped 0))
        ∧ (tf = int16 t1 t0 → t.port = s.counted.port ∧ t.errors = s.errors)
        ∧ Unchanged [.target, .solver, .errors, .port] s t)
  ∧ ∀ (s : State) (f : Frame) (t1 t0 r1 r0 : Byte), f.kind = kindCode .target →
    f.payload = [t1, t0, r1, r0] → nat16 r1 r0 ≤ 9999 → s.acceptsOrders f.src → s.ownHasPlace →
      let t := s.actOn .d f .consume
      let u := s.actOn .u f .consume
      t.target = u.target ∧ t.solver = u.solver ∧ (u.target.clamped = false → t = u)
        ∧ (u.target.clamped = true → s.Records t (detection .targetClamped f.src.toNat))
        ∧ Unchanged [.target, .solver, .errors, .port] s t

/-- An accepted HOLD (R28): a change of the flag is a load-only trigger; HOLD on stops the ramp timer; HOLD
off moves T_e to T_f at rate 0 and otherwise starts the timer when they differ. An accepted ADMIT (R29): the
flag alone changes in the tracker, a change is an AVAILABILITY trigger, and a withdrawal takes the machine's
entry out of the start queue, by the model's choice before that trigger's snapshot (log entry 28). A flag's
present state changes nothing. -/
def Obligations.HoldAndAdmitAreTaken : Prop :=
  (∀ (s : State) (dest src b : Byte), s.hears dest [b] → s.acceptsOrders src → b.toNat ≤ 1 →
    ∃ t, exec (.hold .u dest src [b]) s = .next t
      ∧ (s.target.holdFlag = (b == 1) → t.target = s.target ∧ t.solver = s.solver)
      ∧ (s.target.holdFlag = false → b = 1 →
        t.target = { s.target with holdFlag := true, rampNext := none })
      ∧ (s.target.holdFlag = true → b = 0 →
        t.target = { s.target with
          holdFlag := false
          te := if s.target.rate = 0 then s.target.tf else s.target.te
          rampNext := if s.target.te ≠ s.target.tf ∧ s.target.rate ≠ 0
            then some (s.now + s.settings.rampInterval) else s.target.rampNext })
      ∧ (s.target.holdFlag ≠ (b == 1) → t.solver = (s.setTarget t.target).loadTrigger.solver)
      ∧ t.port = s.counted.port ∧ Unchanged [.target, .solver, .port] s t)
  ∧ ∀ (s : State) (dest src m b : Byte) (u : UnitId), s.hears dest [m, b] → s.acceptsOrders src →
    m.toNat = unitNumber u → b.toNat ≤ 1 →
      ∃ t, exec (.admission .u dest src [m, b]) s = .next t
        ∧ t.tracker u = { s.tracker u with admitted := b == 1 }
        ∧ (∀ v, v ≠ u → t.tracker v = s.tracker v)
        ∧ t.queue = (if (s.tracker u).admitted = true ∧ b = 0
            then s.queue.filter (fun e => e.unit != u) else s.queue)
        ∧ ((s.tracker u).admitted = (b == 1) → t.solver = s.solver)
        ∧ ((s.tracker u).admitted ≠ (b == 1) →
            t.solver = (((s.setTrackers t.trackers).setQueue t.queue).fullTrigger .availability).solver)
        ∧ t.port = s.counted.port ∧ Unchanged [.trackers, .queue, .solver, .port] s t

/-- A valid HEAD frame is taken from any source in every authority state (R12): the head is the difference of
the levels within 0 to 20000, it is valid and fresh, and the solver compares it with H_ref (R42). -/
def Obligations.HeadIsTaken : Prop :=
  ∀ (s : State) (dest src u1 u0 l1 l0 : Byte), s.hears dest [u1, u0, l1, l0] →
    nat16 u1 u0 ≤ 30000 → nat16 l1 l0 ≤ 30000 →
      let head := min 20000 (nat16 u1 u0 - nat16 l1 l0)
      ∃ t, exec (.head .u dest src [u1, u0, l1, l0]) s = .next t
        ∧ t.table = { s.table with head := head, headValid := true, headStale := false, headRef := s.now }
        ∧ (head ≤ s.solver.headRef + s.settings.headDeadband →
            s.solver.headRef ≤ head + s.settings.headDeadband → t.solver = s.solver)
        ∧ (s.solver.headRef + s.settings.headDeadband < head
            ∨ head + s.settings.headDeadband < s.solver.headRef →
            t.solver = ((s.setTable t.table).fullTrigger .head).solver)
        ∧ t.port = s.counted.port ∧ Unchanged [.table, .solver, .port] s t

/-! ## Authority and the emergency stop -/

/-- A change of the local/remote line stores its level, sets the line's flag at an assertion, and makes an
authority transition exactly when the derived value changes between REMOTE and LOCAL (R19, R24, R25,
R181, R182); an entry to REMOTE is a walk event (R110). -/
def Obligations.LocalLineMovesTheAuthority : Prop :=
  ∀ (s : State) (asserted : Bool), s.processing ≠ .deviceReset →
    s.settings.plantMin ≤ s.settings.plantMax →
      let x := s.setInputs { s.inputs with
        localLevel := asserted, localFlag := s.inputs.localFlag || asserted }
      ∃ t y, exec (if asserted then .localRemoteAssert else .localRemoteDeassert) s = .next t
        ∧ t = State.walkAfter s y
        ∧ (s.authority = x.authority → y = x)
        ∧ (s.authority = .remote → x.authority = .localControl → x.LeavesRemote y ∧ t = y)
        ∧ (s.authority = .localControl → x.authority = .remote → x.EntersRemote y)
        ∧ (s.target.estopLatch = true → s.authority = .estop ∧ x.authority = .estop)
        ∧ (s.target.estopLatch = false →
            (x.authority = .remote ↔ asserted = false ∧ s.target.setting = .remote))

/-- The emergency-stop line's assertion latches ESTOP (R21, R22): the running and starting machines to
STOPPING, the converters that spin machines up to DETACHING, the start queue empty, the targets 0 and the timers
stopped, with the effects of leaving REMOTE when it does (R25), and ESTOP recorded (the order: log entry 12). The
STOPs and then the DETACHs enter the order queue, in place where an order waits for their station (R134);
leaving REMOTE then removes the orders that start or load machines. A free line with nothing queued sends the
first of them at once (log entry 23). -/
def Obligations.EmergencyStopStopsThePlant : Prop :=
  ∀ s : State, s.processing ≠ .deviceReset → s.ownHasPlace → ∃ t,
    exec .emergencyStopEdge s = .next t
      ∧ t.inputs = { s.inputs with estopLevel := true, estopFlag := true }
      ∧ t.target = { s.target with
          estopLatch := true, tf := 0, te := 0, rampNext := none
          holdFlag := if s.isRemote then false else s.target.holdFlag }
      ∧ t.queue = [] ∧ s.Records t (detection .estop 0)
      ∧ (∀ u, t.tracker u =
          let moved := if (s.tracker u).state ∈ [TState.gen, .pump, .genStart, .pumpSpin, .pumpPrime,
              .changeover] then (s.tracker u).enter s.now (s.unit u) .stopping none .noCause
            else s.tracker u
          { moved with lastSent := if s.isRemote then none else moved.lastSent })
      ∧ (∀ c, t.conv c = match (s.conv c).state with
          | .attaching u => { s.conv c with
              state := .detaching u, entryTime := s.now, cause := .noCause
              deadline := some (s.now + s.settings.attachTimeout) }
          | .driving u => { s.conv c with
              state := .detaching u, entryTime := s.now, cause := .noCause
              deadline := some (s.now + s.settings.attachTimeout) }
          | _ => s.conv c)
      ∧ (s.isRemote = false → t.solver = s.solver)
      ∧ (s.isRemote = true → t.solver = { s.solver with
          phase := .idle, fullPending := false, loadPending := false, resolveNext := none
          discarded := match s.solver.phase with
            | .full _ => satInc s.solver.discarded
            | _ => s.solver.discarded })
      ∧ (s.line.activity ≠ .idle → t.line = { s.line with
          orders := (s.estopOrders.foldl (fun q o => insertOrder s.now o q) s.line.orders).filter
            (fun q => !s.isRemote || match q.order with
              | .unit _ .stop => true
              | .conv _ .detach => true
              | _ => false) })
      ∧ (s.line.activity = .idle → s.line.orders = [] → t.line = match s.estopOrders with
          | [] => s.line
          | o :: rest => { s.line with
              activity := .sending (.order o) (s.orderFrame o)
              orders := rest.map (fun r => ⟨r, s.now⟩) })
      ∧ Unchanged [.inputs, .target, .queue, .errors, .port, .trackers, .convs, .solver, .line] s t

/-- Lines that only change a level or a pin, and the second that passes: nothing else moves (R97, R179, R181,
R189). No second is counted during device reset processing. -/
def Obligations.ReleasesAndSecondsMoveOneField : Prop :=
  ∀ (s : State) (u : UnitId),
    (∃ t, exec (.tripLineDeassert u) s = .next t ∧ Unchanged [.inputs] s t
        ∧ t.inputs.tripLevel.get u = false
        ∧ (∀ v, v ≠ u → t.inputs.tripLevel.get v = s.inputs.tripLevel.get v)
        ∧ { t.inputs with tripLevel := s.inputs.tripLevel } = s.inputs)
      ∧ (∃ t, exec .emergencyStopRelease s = .next t ∧ Unchanged [.inputs] s t
        ∧ t.inputs = { s.inputs with estopLevel := false })
      ∧ (∃ t, exec .resetPinRelease s = .next t ∧ Unchanged [.inputs] s t
        ∧ t.inputs = { s.inputs with resetPinLow := false })
      ∧ (∃ t, exec .deviceTimeTick s = .next t ∧ Unchanged [.errors] s t
        ∧ (s.processing ≠ .deviceReset → s.now ≤ 4294967295 →
            t.errors = { s.errors with now := min (s.now + 1) 4294967295 })
        ∧ (s.processing = .deviceReset → t = s))

/-! ## Timers -/

/-- The model's choice (log entry 4). A timer, a completion or an end of processing or transmission that is
not due has no effect. -/
def Obligations.WhatIsNotDueHasNoEffect : Prop :=
  ∀ (c : Instr) (s : State), s.notDue c → exec c s = .next s

/-- A ramp step (R32): T_e moves toward T_f by the rate times the interval, and onto it when it is no further,
which stops the timer; a timer that still runs takes its next time one interval later (R31). -/
def Obligations.RampStepMovesTowardTheTarget : Prop :=
  ∀ (s : State) (e : Time), s.processing ≠ .deviceReset → s.target.rampNext = some e → e ≤ s.now →
    let size : Nat := s.target.rate * s.settings.rampInterval
    ∃ t, exec .rampStep s = .next t
      ∧ ((s.target.tf - s.target.te).natAbs ≤ size →
          t.target = { s.target with te := s.target.tf, rampNext := none })
      ∧ (size < (s.target.tf - s.target.te).natAbs → s.target.te < s.target.tf →
          t.target = { s.target with
            te := s.target.te + size, rampNext := some (e + s.settings.rampInterval) })
      ∧ (size < (s.target.tf - s.target.te).natAbs → s.target.tf < s.target.te →
          t.target = { s.target with
            te := s.target.te - size, rampNext := some (e + s.settings.rampInterval) })
      ∧ t.solver = (s.setTarget t.target).loadTrigger.solver ∧ Unchanged [.target, .solver] s t

/-- Expiries of the targets', the head's, the solver's and the pins' timers. An order that goes stale (R34): T_f
falls back to T_e, the timer stops, the flag sets, ORDER_STALE is recorded, and no trigger fires. A head that
goes stale (R14): the flag sets and HEAD_STALE is recorded. The re-solve timer's expiry is a PERIOD trigger
and takes the next expiry one period after this one (R43). The end of a pin makes it SERVED and is a PIN
trigger (R104). -/
def Obligations.OrderHeadPeriodAndPinExpire : Prop :=
  (∀ s : State, s.processing ≠ .deviceReset → s.ownHasPlace →
    (s.isRemote = true → s.settings.orderTimeout ≠ 0 → s.target.staleOrder = false →
      s.target.orderRef + s.settings.orderTimeout ≤ s.now →
        ∃ t, exec .orderStale s = .next t
          ∧ t.target = { s.target with tf := s.target.te, rampNext := none, staleOrder := true }
          ∧ s.Records t (detection .orderStale 0) ∧ Unchanged [.target, .errors, .port] s t)
    ∧ (s.table.headStale = false → s.table.headRef + s.settings.headStaleTime ≤ s.now →
        ∃ t, exec .headStale s = .next t ∧ t.table = { s.table with headStale := true }
          ∧ s.Records t (detection .headStale 0) ∧ Unchanged [.table, .errors, .port] s t))
  ∧ ∀ (s : State) (e : Time) (u : UnitId), s.processing ≠ .deviceReset → e ≤ s.now →
    (s.solver.resolveNext = some e →
      ∃ t, exec .resolveTimerExpiry s = .next t ∧ Unchanged [.solver] s t
        ∧ t = (s.setSolver { s.solver with
            resolveNext := some (e + s.settings.resolvePeriod) }).fullTrigger .period)
    ∧ ((s.tracker u).pin = .pinned → (s.tracker u).pinEnd = some e →
      ∃ t, exec (.pinEnd u) s = .next t
        ∧ t.tracker u = { s.tracker u with pin := .served } ∧ (∀ v, v ≠ u → t.tracker v = s.tracker v)
        ∧ t.solver = ((s.setTrackers t.trackers).fullTrigger .pin).solver
        ∧ Unchanged [.trackers, .solver] s t)

/-- The status timer's expiry (R166): the next expiry one interval later; with the dispatch-centre address 0
nothing is gathered; a waiting STATUS frame takes the fresh content and destination in its place and keeps the
source it was made with (R168); otherwise a fresh one is offered to the own queue, and a full queue drops it
with U_OWN_OVERFLOW (R164). -/
def Obligations.StatusIsGatheredOnce : Prop :=
  ∀ s : State, s.processing ≠ .deviceReset → s.port.statusNext ≤ s.now →
    let p := { s.port with
      statusLast := s.port.statusNext, statusNext := s.port.statusNext + s.settings.statusInterval }
    let waits (x : OwnFrame) : Bool := x.frame.kind == kindCode .status
    ∃ t, exec .statusTimerExpiry s = .next t
      ∧ (s.settings.dispatchAddr = 0 → t = s.setPort p)
      ∧ (s.settings.dispatchAddr ≠ 0 → (∃ x ∈ s.port.own, waits x = true) →
          t = s.setPort { p with
            own := s.port.own.map (fun x =>
              if waits x then { x with frame := { s.statusFrame with src := x.frame.src } } else x)
            traffic := { s.port.traffic with refreshed := satInc s.port.traffic.refreshed } })
      ∧ (s.settings.dispatchAddr ≠ 0 → (∀ x ∈ s.port.own, waits x = false) → s.ownHasPlace →
          t.outgoing = s.outgoing ++ [⟨s.statusFrame, false⟩]
            ∧ t.port = { p with own := t.port.own, tx := t.port.tx } ∧ Unchanged [.port] s t)
      ∧ (s.settings.dispatchAddr ≠ 0 → (∀ x ∈ s.port.own, waits x = false) →
          s.port.own.length = Config.ownQueueSize →
          t = (s.setPort p).detectAt .uOwnOverflow 0)

/-- A transitional deadline that has passed faults its machine with TRANSITION_TIMEOUT (R92). A converter
deadline that has passed faults the converter (R125, R126): the cause by the state left, the deadline
cancelled, CONVERTER_FAULT at its station; a machine it was spinning up is stopped. The walk that these changes
cause runs after them (R110), and the triggers of a tracker's change reach the solver before it, which is the
model's reading (log entry 24). -/
def Obligations.DeadlinesFaultMachineAndConverter : Prop :=
  (∀ (s : State) (u : UnitId) (e : Time), s.processing ≠ .deviceReset → s.ownHasPlace →
    (s.tracker u).deadline = some e → e ≤ s.now →
      ∃ x, exec (.transitionDeadline u) s = .next (State.walkAfter s x)
        ∧ s.Faults x u .transitionTimeout .transitionTimeout)
  ∧ ∀ (s : State) (c : ConvId) (u : UnitId) (e : Time), s.processing ≠ .deviceReset → s.ownHasPlace →
    (s.conv c).deadline = some e → e ≤ s.now →
      (s.conv c).state = .attaching u ∨ (s.conv c).state = .detaching u →
      ∃ x, exec (.converterDeadline c) s = .next (State.walkAfter s x)
        ∧ x.conv c = { s.conv c with
            state := .faulted, entryTime := s.now, deadline := none
            cause := if (s.conv c).state = .attaching u then .attachTimeout else .detachTimeout }
        ∧ (∀ j, j ≠ c → x.conv j = s.conv j) ∧ s.Records x (detection .converterFault (convStation c))
        ∧ ((s.conv c).state = .detaching u →
            Unchanged [.convs, .errors, .port] s x)
        ∧ ((s.conv c).state = .attaching u → s.Enters x u .stopping none .noCause
            ∧ x.line = (s.placeOrder (.unit u .stop)).line
            ∧ Unchanged [.convs, .errors, .port, .trackers, .queue, .solver, .line] s x)

/-! ## The unit line -/

/-- A valid reply closes its window (R137 to R139, R143, R144, R146): the reception is over, a tracked
station's miss count is 0, a frame that is no NIL is counted and routed, then the scan decides and the
line chooses. NIL is handed to no one, whatever its payload (log entry 19); a broadcast or a COPY is consumed
before it is forwarded (log entry 18); a poll in flight at a restart of the scan ends no pass (log entry 20). -/
def Obligations.ValidReplyClosesItsWindow : Prop :=
  ∀ (c : Instr) (f : Frame) (s : State) (a : Nat) (advance expired : Bool),
    c.reception = some (some f) → s.InWindow a advance expired →
      f.payload.length ≤ Config.maxPayload → f.src.toNat = a →
        ∃ y, exec c s = .next (y.closed a advance)
          ∧ (f.kind = kindCode .nil → y = s.heard a)
          ∧ (f.kind ≠ kindCode .nil → (f.kind = kindCode .unitReport → ∀ u, a ≠ unitNumber u) →
              (f.kind = kindCode .converterReport → ∀ k, a ≠ convStation k) →
                (s.heard a).countedD.Routes y .d f)

/-- A unit report in its station's window (R82, R158): it is counted, recorded in the tracker in every state
and applied by the tracker's state (R86 to R95, R97; log entry 11), the walk of its changes runs (R110) after
their triggers (log entry 24), and the window closes (log entry 20). A malformed one is FRAME_KIND_UNKNOWN at
its station (R191). -/
def Obligations.UnitReportMovesItsTracker : Prop :=
  ∀ (dest src : Byte) (p : List Byte) (s : State) (u : UnitId) (advance expired : Bool),
    s.InWindow (unitNumber u) advance expired → src.toNat = unitNumber u →
      p.length ≤ Config.maxPayload → s.ownHasPlace →
        let h := (s.heard (unitNumber u)).countedD
        ∃ y, exec (.unitReport dest src p) s = .next (y.closed (unitNumber u) advance)
          ∧ ((∀ r, ¬ ReportSays p r) → h.Records y (detection .frameKindUnknown (unitNumber u))
              ∧ Unchanged [.errors, .port] h y)
          ∧ ∀ r, ReportSays p r → ∃ z, y = State.walkAfter h z
              ∧ (h.setTracker u { s.tracker u with
                  rptMode := r.mode, rptReady := r.ready, rptPower := r.power, rptTime := s.now
                  rptValid := true }).TakesReport z u r

/-- A converter report in its station's window (R118, R158): it is counted, recorded in every state and
applied by the record's state (R119 to R122, R126, R130; OBSERVED keeps its entry time, log entry 13), the
walk of its changes runs (R110) after their triggers (log entry 24), and the window closes (log entry 20). A
malformed one is FRAME_KIND_UNKNOWN at its station (R191). -/
def Obligations.ConverterReportMovesItsRecord : Prop :=
  ∀ (dest src : Byte) (p : List Byte) (s : State) (c : ConvId) (advance expired : Bool),
    s.InWindow (convStation c) advance expired → src.toNat = convStation c →
      p.length ≤ Config.maxPayload → s.ownHasPlace →
        let h := (s.heard (convStation c)).countedD
        let recorded (m : ConvMode) (n : Nat) := h.setConv c { s.conv c with
          rptMode := m, rptUnit := n, rptTime := s.now, rptValid := true }
        ∃ y, exec (.converterReport dest src p) s = .next (y.closed (convStation c) advance)
          ∧ ((∀ a b : Byte, p = [a, b] → ¬ (a = 0 ∧ b = 0 ∨ (a = 1 ∨ a = 2) ∧ 1 ≤ b.toNat ∧ b.toNat ≤ 8
                ∨ a = 3 ∧ b.toNat ≤ 8)) →
              h.Records y (detection .frameKindUnknown (convStation c))
                ∧ Unchanged [.errors, .port] h y)
          ∧ (p = [0, 0] → ∃ z, y = State.walkAfter h z
              ∧ ∀ v, (recorded .idle 0).TakesConvReport z c .idle v)
          ∧ (∀ (b : Byte) (v : UnitId), b.toNat = unitNumber v →
              (p = [1, b] → ∃ z, y = State.walkAfter h z
                ∧ (recorded .attached b.toNat).TakesConvReport z c .attached v)
              ∧ (p = [2, b] → ∃ z, y = State.walkAfter h z
                ∧ (recorded .driving b.toNat).TakesConvReport z c .driving v))
          ∧ (∀ b : Byte, b.toNat ≤ 8 → p = [3, b] → ∃ z, y = State.walkAfter h z
              ∧ ∀ v, (recorded .fault b.toNat).TakesConvReport z c .fault v)

/-- Receptions on the unit line that are no valid reply (R137, R138, R140, R151): a check failure counted at the
polled station in its window and at station 0 outside one, uncounted when a line reset cut it, and
discarded during device reset; the window stays open, or closes with a miss when its timeout has passed.
A reception that lasts too long is one of them; the start of one only notes where it began (log entry 6). -/
def Obligations.InvalidReceptionIsCounted : Prop :=
  ∀ (s : State) (c : Instr) (r : Option Frame), s.ownHasPlace →
    (c.reception = some r ∨ c = .receptionLimit ∧ r = none ∧ s.line.rx ≠ none) →
      let begun := s.line.rx.getD (match s.line.activity with
        | .window _ _ _ _ => .inWindow
        | .resetting => .uncounted
        | _ => .stray)
      let ended := s.setLine { s.line with rx := none }
      (s.processing = .deviceReset → exec c s = .next ended)
      ∧ (∃ t, exec .receptionStart s = .next t ∧ t.line = { s.line with rx := some begun }
          ∧ Unchanged [.line] s t)
      ∧ (s.processing ≠ .deviceReset →
        (∀ a adv t e f, s.line.activity = .window a adv t e → r = some f → begun = .inWindow →
          f.payload.length ≤ Config.maxPayload → f.src.toNat ≠ a) →
        ∃ y, (begun = .uncounted → y = ended)
          ∧ (begun = .stray → ended.Records y (detection .dFrameCheck 0)
              ∧ Unchanged [.errors, .port] ended y)
          ∧ (∀ a adv t e, begun = .inWindow → s.line.activity = .window a adv t e →
              ended.Records y (detection .dFrameCheck a) ∧ Unchanged [.errors, .port] ended y)
          ∧ ((∀ a adv t, s.line.activity ≠ .window a adv t true) → exec c s = .next y)
          ∧ (∀ a adv t, s.line.activity = .window a adv t true →
              exec c s = exec .replyWindowTimeout y))

/-- The reply timeout of an open window (R137, R141). While a reception is in progress the window stays
open. Otherwise it closes after a miss: an untracked station counts none; a tracked one counts up to the
miss limit with POLL_MISS, and at the limit the station is lost: the tracker or the record to LOST with
STATION_LOST (R101, R128), once, and the walk of that runs (R110) after the triggers of the loss (log entry 24).
A poll in flight at a restart of the scan ends no pass (log entry 20). -/
def Obligations.ReplyTimeoutCountsAMiss : Prop :=
  ∀ (s : State) (a : Nat) (advance expired : Bool), s.InWindow a advance expired → s.ownHasPlace →
    (s.line.rx ≠ none → ∃ t, exec .replyWindowTimeout s = .next t ∧ Unchanged [.line] s t
      ∧ ∃ n, s.line.activity = .window a advance n expired
        ∧ t.line = { s.line with activity := .window a advance n true })
    ∧ (s.line.rx = none → ∃ m y, exec .replyWindowTimeout s = .next (y.closed a advance)
      ∧ (s.tracked a = false → y = s)
      ∧ (s.tracked a = true →
          let n := min (s.missCount a + 1) s.settings.missLimit
          m.line = { s.line with misses := s.missesWith a n } ∧ s.Records m (detection .pollMiss a)
            ∧ Unchanged [.line, .errors, .port] s m
            ∧ (n < s.settings.missLimit → y = m)
            ∧ (n = s.settings.missLimit →
                (∀ u, a = unitNumber u → ((s.tracker u).state = .lost → y = m)
                  ∧ ((s.tracker u).state ≠ .lost → ∃ z, y = State.walkAfter m z
                      ∧ m.Enters z u .lost none .noCause ∧ m.Detaches m z (m.spinner u)
                      ∧ (m.ownHasPlace → m.Records z (detection .stationLost a))
                      ∧ Unchanged [.trackers, .queue, .solver, .line, .convs, .errors, .port] m z))
                ∧ (∀ c, a = convStation c → ((s.conv c).state = .lost → y = m)
                  ∧ ((s.conv c).state ≠ .lost → ∃ z, y = State.walkAfter m z
                      ∧ m.ConvEnters z c .lost .noCause ∧ m.StopsSpun z c
                      ∧ (m.ownHasPlace → m.Records z (detection .stationLost a)))))))

/-- The ends of transmission. The unit line, free, takes the oldest order, else the oldest forwarded frame, else
a poll (R133), which a scan that is not RUNNING, a full forward-up queue under PROTECT (R149) or a missing
step credit (R144) holds back. A poll sent opens its window (R137). The free transmitter takes the oldest
own frame, else the oldest forwarded one, whose departure resumes a PAUSED scan (R149, R165). -/
def Obligations.EndOfTransmissionChoosesTheNext : Prop :=
  ∀ s : State, s.processing ≠ .deviceReset →
    (∀ w f, s.line.activity = .sending w f → (∀ a adv, w ≠ .poll a adv) →
      ∃ t, exec .unitLineTxEnd s = .next t ∧ Unchanged [.line] s t
        ∧ (∀ q rest, s.line.orders = q :: rest → t.line = { s.line with
            orders := rest, activity := .sending (.order q.order) (s.orderFrame q.order) })
        ∧ (∀ g rest, s.line.orders = [] → s.line.forwardDown = g :: rest → t.line = { s.line with
            forwardDown := rest, activity := .sending .forwarded g })
        ∧ (s.line.orders = [] → s.line.forwardDown = [] → t.line =
            if s.line.scan ≠ .running then { s.line with activity := .idle }
            else if s.line.protection = .protect ∧ 16 ≤ s.port.forwardUp.length then
              { s.line with activity := .idle, scan := .paused }
            else if s.line.scanMode = .step ∧ s.line.stepCredit = false then
              { s.line with activity := .idle }
            else { s.line with
              activity := .sending (.poll s.line.nextAddr true)
                (mkFrame s.line.nextAddr s.settings.stationAddr .poll [])
              stepCredit := if s.line.scanMode = .step then false else s.line.stepCredit }))
    ∧ (∀ a adv f, s.line.activity = .sending (.poll a adv) f →
      ∃ t, exec .pollTxEnd s = .next t ∧ Unchanged [.line] s t
        ∧ t.line = { s.line with activity := .window a adv s.settings.pollTimeout false })
    ∧ (∀ x, s.port.tx = some x → x.resetReply = false → ∃ t, exec .dispatchTxEnd s = .next t
        ∧ (∀ o rest, s.port.own = o :: rest →
            t.port = { s.port with own := rest, tx := some o } ∧ Unchanged [.port] s t)
        ∧ (∀ f rest, s.port.own = [] → s.port.forwardUp = f :: rest →
            t.port = { s.port with forwardUp := rest, tx := some ⟨f, false⟩ }
              ∧ (s.line.scan ≠ .paused → Unchanged [.port] s t)
              ∧ (s.line.scan = .paused → Unchanged [.port, .line] s t ∧ t.line =
                  ((s.setPort t.port).setLine { s.line with scan := .running }).lineChoose.line))
        ∧ (s.port.own = [] → s.port.forwardUp = [] →
            t.port = { s.port with tx := none } ∧ Unchanged [.port] s t))

/-- An order placed for a station takes the place and the queued time of the order that waits for it, and
otherwise joins the tail (R134); its frame goes to that station with its one argument (section 11.2). -/
def Obligations.OrderReplacesInPlace : Prop :=
  ∀ (s : State) (o : Order),
    (∃ l, s.placeOrder o = (s.setLine { s.line with orders := l }).lineChoose
      ∧ ((∀ q ∈ s.line.orders, q.order.station ≠ o.station) → l = s.line.orders ++ [⟨o, s.now⟩])
      ∧ ∀ before q after, s.line.orders = before ++ q :: after → q.order.station = o.station →
          (∀ w ∈ before, w.order.station ≠ o.station) → l = before ++ ⟨o, q.queuedAt⟩ :: after)
    ∧ (∀ u k, o = .unit u k → s.orderFrame o = match k with
      | .startGen => mkFrame (unitNumber u) s.settings.stationAddr .startGen []
      | .startPump c => mkFrame (unitNumber u) s.settings.stationAddr .startPump [byteOf (convNumber c)]
      | .changeover => mkFrame (unitNumber u) s.settings.stationAddr .changeover []
      | .stop => mkFrame (unitNumber u) s.settings.stationAddr .stop []
      | .setpoint v => mkFrame (unitNumber u) s.settings.stationAddr .setpoint (be16 v))
    ∧ (∀ c k, o = .conv c k → s.orderFrame o = match k with
      | .attach u => mkFrame (convStation c) s.settings.stationAddr .attach [byteOf (unitNumber u)]
      | .detach => mkFrame (convStation c) s.settings.stationAddr .detach [])

/-! ## Trip lines and the admission walk -/

/-- A trip line's assertion (R96, R181, R182): its level and its flag set; a machine already FAULTED only has
UNIT_TRIP recorded, any other is faulted with cause TRIP_LINE, and the walk of that runs (R110) after the
triggers of the fault, which is the model's reading (log entry 24). -/
def Obligations.TripLineFaultsItsMachine : Prop :=
  ∀ (s : State) (u : UnitId), s.processing ≠ .deviceReset → s.ownHasPlace →
    let x := s.setInputs { s.inputs with
      tripLevel := upd s.inputs.tripLevel u true, tripFlag := upd s.inputs.tripFlag u true }
    ∃ z, exec (.tripLineAssert u) s = .next (State.walkAfter s z)
      ∧ ((s.tracker u).state = .faulted → x.Records z (detection .unitTrip (unitNumber u))
          ∧ Unchanged [.errors, .port] x z)
      ∧ ((s.tracker u).state ≠ .faulted → x.Faults z u .tripLine .unitTrip)

/-- The walk (R110 to R114): it runs when an event has a tracker leave a transitional state, a converter enter
FREE or the authority enter REMOTE. In REMOTE it starts the oldest entry that may start, with its order and
its grant, and then walks on from the state which that leaves, until no entry may start; the entries it leaves
stand in their order, each with the hold that R112 finds. Outside REMOTE it does nothing. The starts'
AVAILABILITY triggers, one for each, reach the solver after the walk, by the model's choice (R111, log entry 8). -/
def Obligations.WalkStartsEveryEligibleEntry : Prop :=
  ∀ s : State, (s.queue.map (fun e => e.unit)).Nodup →
    let t := s.runWalk
    let walked := s.admissionWalk.1
    let starts := s.admissionWalk.2
    let event (before : State) : Prop :=
      (∃ u, (before.tracker u).state ∈ [TState.genStart, .pumpSpin, .pumpPrime, .changeover, .stopping]
          ∧ (s.tracker u).state ≠ (before.tracker u).state)
        ∨ (∃ c, (before.conv c).state ≠ .free ∧ (s.conv c).state = .free)
        ∨ before.isRemote = false ∧ s.isRemote = true
    (∀ before, event before → State.walkAfter before s = t)
    ∧ (∀ before, ¬ event before → State.walkAfter before s = s)
    ∧ t = (fun y : State => y.fullTrigger .availability)^[starts] walked
    ∧ walked.solver = s.solver ∧ walked.queue.length + starts = s.queue.length
    ∧ (s.isRemote = false → walked = s ∧ starts = 0)
    ∧ Unchanged [.trackers, .queue, .solver, .line, .convs] s t
    ∧ (s.isRemote = true →
      (∀ before e later, s.queue = before ++ e :: later → (∀ q ∈ before, ¬ s.MayStart q) →
          s.MayStart e → ∃ x, s.Starts x e
            ∧ s.admissionWalk = (x.admissionWalk.1, x.admissionWalk.2 + 1))
      ∧ ((∀ e ∈ s.queue, ¬ s.MayStart e) → starts = 0 ∧ Unchanged [.queue] s walked)
      ∧ (∀ e ∈ t.queue, t.PassesOver e)
      ∧ (t.queue.map (fun e => (e.unit, e.kind, e.enqueued))).Sublist
          (s.queue.map (fun e => (e.unit, e.kind, e.enqueued)))
      ∧ (∀ u, (∀ e ∈ s.queue, e.unit = u → ∃ q ∈ t.queue, q.unit = u) → t.tracker u = s.tracker u)
      ∧ ∀ e ∈ s.queue, (∀ q ∈ t.queue, q.unit ≠ e.unit) →
          let entered (st : TState) (g : Option ConvId) :=
            (s.tracker e.unit).enter s.now (s.unit e.unit) st g .noCause
          (e.kind = .startGen → t.tracker e.unit = entered .genStart none)
          ∧ (e.kind = .changeover → t.tracker e.unit = entered .changeover none)
          ∧ (e.kind = .startPump → ∃ c, s.CanGrant e.unit c ∧ t.tracker e.unit = entered .pumpSpin (some c)
              ∧ t.conv c = { s.conv c with
                  state := .attaching e.unit, entryTime := s.now, cause := .noCause
                  deadline := some (s.now + s.settings.attachTimeout) }))

/-! ## The solver -/

/-- A full trigger (R45 to R47, R63): discarded outside REMOTE or with its source disabled; it starts a solve
in IDLE; with a solve in flight it sets the full-pending latch under LATCH, and under RESTART discards
the solve and starts a full one; during engine reset processing it only latches. What follows a completed
solve is the first of the four cases of R49 that applies. -/
def Obligations.FullTriggersAndCompletionsChooseTheSolve : Prop :=
  (∀ (s : State) (src : TriggerSource),
    let t := s.fullTrigger src
    let off := src = .availability ∧ s.settings.enAvailability = false
      ∨ src = .pin ∧ s.settings.enPin = false ∨ src = .head ∧ s.settings.enHead = false
      ∨ src = .period ∧ s.settings.enPeriod = false
    Unchanged [.solver] s t
      ∧ (s.isRemote = false ∨ off → t = s)
      ∧ (s.isRemote = true → ¬ off → s.processing = .engineReset →
          t.solver = { s.solver with fullPending := true })
      ∧ (s.isRemote = true → ¬ off → s.processing ≠ .engineReset →
          (s.solver.phase = .idle → Solver.StartedFull s s.solver t.solver)
          ∧ (s.solver.phase ≠ .idle → s.settings.policy = .latch →
              t.solver = { s.solver with fullPending := true })
          ∧ (∀ n, s.solver.phase = .full n → s.settings.policy = .restart →
              Solver.StartedFull s { s.solver with discarded := satInc s.solver.discarded } t.solver)
          ∧ (∀ n, s.solver.phase = .load n → s.settings.policy = .restart →
              Solver.StartedFull s s.solver t.solver)))
  ∧ ∀ (s : State) (absorbed : Bool),
    let t := s.chooseNextSolve absorbed
    Unchanged [.solver] s t
      ∧ (s.solver.fullPending = true →
          Solver.StartedFull s { s.solver with fullPending := false } t.solver)
      ∧ (s.solver.fullPending = false → (s.solver.loadPending = true ∨ absorbed = true) →
          ∃ n : Snapshot, n.Holds s
            ∧ t.solver = { s.solver with phase := .load n, loadPending := false })
      ∧ (s.solver.fullPending = false → s.solver.loadPending = false → absorbed = false →
          t.solver = { s.solver with phase := .idle })

/-- A load-only trigger is handled by the solver state (R48): it starts a load-only solve in IDLE, is absorbed
in FULL and latched in LOAD, under either policy; the start of a solve of either kind clears the
load-pending latch. Outside REMOTE it is discarded (R45), and during engine reset processing it only sets the
load-pending latch (R63). -/
def Obligations.LoadTriggerByPhase : Prop :=
  ∀ s : State,
    let t := s.loadTrigger
    Unchanged [.solver] s t
      ∧ (s.isRemote = false → t = s)
      ∧ (s.isRemote = true → s.processing = .engineReset →
          t.solver = { s.solver with loadPending := true })
      ∧ (s.isRemote = true → s.processing ≠ .engineReset →
        (s.solver.phase = .idle → ∃ n : Snapshot, n.Holds s
            ∧ t.solver = { s.solver with phase := .load n, loadPending := false })
        ∧ (∀ n, s.solver.phase = .full n → t = s)
        ∧ (∀ n, s.solver.phase = .load n → t.solver = { s.solver with loadPending := true }))
      ∧ s.startFull.solver.loadPending = false ∧ s.startLoad.solver.loadPending = false

/-- A full solve completes in REMOTE (R61, R62). The plan diff runs over the machines added, in their order, and
then the rest ascending (R60), each on what those before it left; when it placed or kept an entry the admission
walk follows; then D is published and judged (R69, R70) and the setpoints are sent (R75), but not to the machines
left out or stopped. The last plan takes the snapshot's values, Lo(S) and Hi(S), and each machine's class, basis
(R57) and action. The solver then chooses by R49, a T_e that moved since the snapshot being absorbed; the starts'
AVAILABILITY triggers come last (log entry 8). -/
def Obligations.FullSolveCompletes : Prop :=
  ∀ (s : State) (n : Snapshot), s.processing ≠ .deviceReset → s.isRemote = true →
    s.solver.phase = .full n →
      let desired (u : UnitId) : Cls := (n.desired n.commit u).1
      let order : List UnitId := n.commit.added.map (fun p => p.unit)
        ++ allUnits.filter (fun u => n.commit.added.all (fun p => p.unit != u))
      let after (l : List UnitId) : State := l.foldl (fun x v => (x.diffUnit n desired v).1) s
      let action (u : UnitId) : DiffAction :=
        ((after (order.takeWhile (fun v => v != u))).diffUnit n desired u).2
      let pass := n.loading (some desired)
      ∃ t w starts, exec .fullSolveComplete s = .next t
        ∧ ((∃ u, action u ∈ [DiffAction.startGen, .startPump, .changeover, .keep]) →
            (w, starts) = (after order).admissionWalk)
        ∧ ((∀ u, action u ∉ [DiffAction.startGen, .startPump, .changeover, .keep]) →
            w = after order ∧ starts = 0)
        ∧ (let sent := pass.setpoints.filter (fun p =>
              decide (action p.unit ∉ [DiffAction.leftOut, .stop] ∧ (w.tracker p.unit).state = p.state
                ∧ (w.tracker p.unit).lastSent ≠ some p.value))
          t.line = (sent.foldl (fun x p => x.placeOrder (.unit p.unit (.setpoint p.value))) w).line
            ∧ (∀ p ∈ sent, t.tracker p.unit = { w.tracker p.unit with lastSent := some p.value })
            ∧ (∀ u, (∀ p ∈ sent, p.unit ≠ u) → t.tracker u = w.tracker u))
        ∧ t.queue = w.queue ∧ t.convs = w.convs
        ∧ (s.settings.devThreshold < pass.deviation.natAbs → s.ownHasPlace →
            s.Records t (detection .deviation 0))
        ∧ (pass.deviation.natAbs ≤ s.settings.devThreshold → t.errors = s.errors ∧ t.port = s.port)
        ∧ t.solver.plan.completedAt = some s.now
        ∧ t.solver.plan.tf = n.tf ∧ t.solver.plan.te = n.te ∧ t.solver.plan.head = n.head
        ∧ t.solver.plan.lo = n.loOf n.placed ∧ t.solver.plan.hi = n.hiOf n.placed
        ∧ t.solver.plan.queue = n.queue
        ∧ (∀ u, let row := t.solver.plan.rows.get u
            row.action = action u ∧ row.desired = desired u
            ∧ (∀ k, n.pinnedClass u = some k → row.desired = k ∧ row.basis = .pinned)
            ∧ (n.pinnedClass u = none → n.unavailable u = true →
                row.desired = .off ∧ row.basis = .unavailable)
            ∧ (n.isFree u = true → ∀ p ∈ n.commit.added, p.unit = u →
                row.desired = p.cls ∧ row.basis = p.basis)
            ∧ (n.isFree u = true → (∀ p ∈ n.commit.added, p.unit ≠ u) → row.desired = .off
                ∧ row.basis = if u ∈ n.commit.removed then .removed else .notAdded))
        ∧ t.solver = ((fun y : State => y.fullTrigger .availability)^[starts]
            ((t.setSolver { s.solver with
              plan := t.solver.plan, completed := satInc s.solver.completed
              deviation := pass.deviation }).chooseNextSolve (decide (s.target.te ≠ n.te)))).solver
        ∧ Unchanged [.solver, .trackers, .queue, .line, .convs, .errors, .port] s t

/-- A load-only solve completes in REMOTE (R75, R80): D is published and DEVIATION recorded past the
threshold (R70); the machines still in their snapshot state whose value differs from the last-sent setpoint are
sent it, SETPOINT orders in ascending index, and only their last-sent setpoints change in the trackers; the
start queue, the converters and the last plan stay; then the solver chooses by R49. -/
def Obligations.LoadSolveCompletes : Prop :=
  ∀ (s : State) (n : Snapshot), s.processing ≠ .deviceReset → s.isRemote = true →
    s.solver.phase = .load n →
      let pass := n.loading none
      let sent := pass.setpoints.filter (fun p => decide ((s.tracker p.unit).state = p.state
        ∧ (s.tracker p.unit).lastSent ≠ some p.value))
      ∃ t, exec .loadSolveComplete s = .next t
        ∧ t.solver = (((s.setTrackers t.trackers).setSolver { s.solver with
            deviation := pass.deviation }).chooseNextSolve false).solver
        ∧ (pass.setpoints.map (fun p => p.unit)).Pairwise (· < ·)
        ∧ t.line = (sent.foldl (fun x p => x.placeOrder (.unit p.unit (.setpoint p.value))) s).line
        ∧ (∀ u, { t.tracker u with lastSent := (s.tracker u).lastSent } = s.tracker u)
        ∧ (∀ p ∈ pass.setpoints, (s.tracker p.unit).state = p.state →
            (t.tracker p.unit).lastSent = some p.value)
        ∧ (∀ u, (∀ p ∈ pass.setpoints, p.unit = u → (s.tracker u).state ≠ p.state) →
            (t.tracker u).lastSent = (s.tracker u).lastSent)
        ∧ (s.settings.devThreshold < pass.deviation.natAbs → s.ownHasPlace →
            s.Records t (detection .deviation 0))
        ∧ (pass.deviation.natAbs ≤ s.settings.devThreshold → t.errors = s.errors ∧ t.port = s.port)
        ∧ Unchanged [.solver, .trackers, .line, .errors, .port] s t

/-- The plan diff for one machine (R58 to R60): a machine whose class, admission or presence changed since the
snapshot is left out; otherwise the action is the one that the table of R59 gives, and a machine that the
table does not name has none. A withdrawn, running, unpinned machine with a record is stopped, as R29 says,
which the model reads over R59's "free" (log entry 9). -/
def Obligations.PlanDiffFollowsItsTable : Prop :=
  ∀ (s : State) (n : Snapshot) (desired : UnitId → Cls) (u : UnitId),
    let r := s.diffUnit n desired u
    let st := (s.tracker u).state
    let out := st.diffClass ≠ (n.tracker u).state.diffClass
      ∨ (s.tracker u).admitted ≠ (n.tracker u).admitted ∨ ((s.unit u).isSome ≠ (n.unit u).isSome)
    let others := s.queue.filter (fun e => e.unit != u)
    let untouched := r = (s, .none)
    let withdrawn := r = (s.setQueue others,
      if (∃ e ∈ s.queue, e.unit = u) then .withdraw else .none)
    let stopped := r = ((s.placeOrder (.unit u .stop)).moveTracker u .stopping none .noCause, .stop)
    let entered (k : EntryKind) := r = match s.queue.find? (fun e => e.unit == u) with
      | some e => if e.kind = k then (s, .keep)
          else (s.setQueue (others ++ [⟨u, k, s.now, .new, none⟩]), k.action)
      | none => (s.setQueue (others ++ [⟨u, k, s.now, .new, none⟩]), k.action)
    let mayChange := ∃ rec, n.unit u = some rec ∧ rec.changeover = .permitted
    let free := n.isFree u = true
    let leaving := (∃ rec, n.unit u = some rec) ∧ (n.tracker u).admitted = false
      ∧ n.pinnedClass u = none
    (out → r = (s, .leftOut))
      ∧ (¬ out → desired u = .off → st = .idle → withdrawn)
      ∧ (¬ out → desired u = .off → (st = .gen ∨ st = .pump) → (free ∨ leaving → stopped)
          ∧ (¬ free → ¬ leaving → untouched))
      ∧ (¬ out → desired u = .off → st ∉ [TState.idle, .gen, .pump] → untouched)
      ∧ (¬ out → desired u = .gen → st = .idle → entered .startGen)
      ∧ (¬ out → desired u = .gen → st = .pump → (free → mayChange → entered .changeover)
          ∧ (free → ¬ mayChange → stopped) ∧ (¬ free → untouched))
      ∧ (¬ out → desired u = .gen → st.diffClass = some .gen → withdrawn)
      ∧ (¬ out → desired u = .gen → st ∉ [TState.idle, .pump] → st.diffClass ≠ some .gen → untouched)
      ∧ (¬ out → desired u = .pump → st = .idle → entered .startPump)
      ∧ (¬ out → desired u = .pump → st = .gen → (free → stopped) ∧ (¬ free → untouched))
      ∧ (¬ out → desired u = .pump → st.diffClass = some .pump → withdrawn)
      ∧ (¬ out → desired u = .pump → st ∉ [TState.idle, .gen] → st.diffClass ≠ some .pump → untouched)

/-! ## Commitment and loading -/

/-- At the end of a commitment pass two machines of one waterway group stand in opposite classes only when
the group permits it in the snapshot or both were pinned (R52). -/
def Obligations.CommitmentKeepsWaterwaysApart : Prop :=
  ∀ (n : Snapshot) (p q : Placed) (r r' : UnitRecord), p ∈ n.placed → q ∈ n.placed →
    n.unit p.unit = some r → n.unit q.unit = some r' → r.group = r'.group → p.cls.Opposed q.cls →
      n.mayOppose r.group ∨ (p ∈ n.pinnedSet ∧ q ∈ n.pinnedSet)

/-- The sorting of R50 and the machines that a commitment pass adds (R52 to R56): free, each once and not also
pinned; by the walks from the merit list of their class, steady in it or IDLE, a pump started from IDLE with a
converter in reach; by the short-circuit walk from the generate list. -/
def Obligations.CommitmentAddsEligibleMachines : Prop :=
  ∀ n : Snapshot,
    (∀ u, let st := (n.tracker u).state
      let pinned := (n.tracker u).pin = .pinned
      (n.unavailable u = true ↔ n.unit u = none ∨ (n.tracker u).admitted = false
          ∨ st ∈ [TState.notReady, .faulted, .lost, .unknown, .observed])
      ∧ (n.pinnedClass u = some .gen ↔ st = .genStart ∨ st = .changeover ∨ st = .gen ∧ pinned)
      ∧ (n.pinnedClass u = some .pump ↔ st = .pumpSpin ∨ st = .pumpPrime ∨ st = .pump ∧ pinned)
      ∧ (n.pinnedClass u = some .off ↔ st = .stopping ∨ st = .idle ∧ pinned)
      ∧ (n.isFree u = true ↔ n.pinnedClass u = none ∧ n.unavailable u = false))
    ∧ (n.placed.map (fun p => p.unit)).Nodup ∧ ∀ p ∈ n.commit.added,
      n.isFree p.unit = true
        ∧ (p.basis = .addedSteady → p.cls = .gen ∧ (n.tracker p.unit).state = .gen ∧ 0 < n.tf
            ∨ p.cls = .pump ∧ (n.tracker p.unit).state = .pump ∧ n.tf < 0)
        ∧ (p.basis = .addedIdle → (n.tracker p.unit).state = .idle ∧ (p.cls = .gen ∧ 0 < n.tf
            ∨ p.cls = .pump ∧ n.tf < 0 ∧ ∃ r, n.unit p.unit = some r ∧ (r.reach1 ∨ r.reach2)))
        ∧ (p.basis = .addedShortCircuit → p.cls = .gen ∧ n.tf < 0 ∧ n.loOf n.placed ≤ n.tf
            ∧ n.tf ≤ n.hiOf n.placed)
        ∧ (p.basis = .addedSteady ∨ p.basis = .addedIdle ∨ p.basis = .addedShortCircuit)
        ∧ (p.cls = .gen → p.unit ∈ n.meritGen) ∧ (p.cls = .pump → p.unit ∈ n.meritPump)

/-- The set S with its sums (R51) and how the walks meet the target (R53 to R56). S begins as the pinned machines, each
in its pinned class, and Lo(S) and Hi(S) are the sums of the bands, [0, 0] for an ABSENT record. A positive T_f: the generate walk adds the first machine that can
join while Hi(S) is below T_f, and then the machine most recently added leaves while Lo(S) exceeds T_f. A
negative T_f: the pump walk adds while Lo(S) is above T_f and removes none; when it overshoots, with Hi(S) below
T_f, and some group permits it, the first machine of the generate list that brings T_f between Lo(S) and Hi(S)
joins as GEN. A target of zero adds nothing. -/
def Obligations.WalksMeetTheTarget : Prop :=
  ∀ n : Snapshot,
    (∀ set : List Placed,
      let band (p : Placed) : Band := match n.unit p.unit with
        | some r => r.band n.head p.cls
        | none => ⟨0, 0⟩
      n.loOf set = (set.map (fun p => (band p).lo)).sum ∧ n.hiOf set = (set.map (fun p => (band p).hi)).sum)
    ∧ (∀ p, p ∈ n.pinnedSet ↔ n.pinnedClass p.unit = some p.cls ∧ p.basis = .pinned)
    ∧ (n.tf = 0 → n.commit.added = [] ∧ n.commit.removed = [])
    ∧ (0 < n.tf → ∃ gone : List Placed,
        n.commit.removed = (gone.map (fun p => p.unit)).reverse
        ∧ n.Walks (fun set => n.hiOf set < n.tf) .gen .gen n.meritGen (n.commit.added ++ gone)
        ∧ (∀ pre p post, gone = pre ++ p :: post →
            n.tf < n.loOf (n.pinnedSet ++ n.commit.added ++ pre ++ [p]))
        ∧ (n.commit.added ≠ [] → n.loOf n.placed ≤ n.tf))
    ∧ (n.tf < 0 → ∃ pumps : List Placed,
        let set := n.pinnedSet ++ pumps
        let tried := n.hiOf set < n.tf ∧ ∃ g, n.mayOppose g
        n.commit.removed = []
        ∧ n.Walks (fun set => n.tf < n.loOf set) .pump .pump n.meritPump pumps
        ∧ ((¬ tried ∨ ∀ u ∈ n.meritGen, ¬ n.Bridges set u) → n.commit.added = pumps)
        ∧ (tried → ∀ a u b, n.meritGen = a ++ u :: b → n.Bridges set u → (∀ v ∈ a, ¬ n.Bridges set v) →
            n.commit.added = pumps ++ [⟨u, .gen, .addedShortCircuit⟩]))

/-- The loading pass (R66 to R69) and its share-out (R71 to R73): the steady set L in ascending index, the residual
R = T_e less what the other machines were last reported to give, D what R lies outside L's band. The
contributions stand in the order of L, each at lo plus its share, one step more for the machines that the
remainder reaches; they sum to R_c, and each lies in its machine's band. A GEN machine's contribution is its
setpoint, a VARIABLE pump's its magnitude, and a FIXED pump has none. -/
def Obligations.ContributionsMeetTheResidual : Prop :=
  (∀ (n : Snapshot) (desired : Option (UnitId → Cls)),
    let l := n.steadySet desired
    let inL (u : UnitId) (k : Cls) (r : UnitRecord) : Prop := n.unit u = some r
      ∧ ((n.tracker u).state = .gen ∧ k = .gen ∨ (n.tracker u).state = .pump ∧ k = .pump)
      ∧ ∀ d, desired = some d → d u = k
    let other (u : UnitId) : Int := if (∀ m ∈ l, m.unit ≠ u) ∧ (n.tracker u).valid = true
        ∧ (n.tracker u).state ≠ .unknown ∧ (n.tracker u).state ≠ .lost then (n.tracker u).power else 0
    let residual := n.te - (allUnits.map other).sum
    let rc := max (loOfLoaded l) (min (hiOfLoaded l) residual)
    (l.map (fun m => m.unit)).Pairwise (· < ·)
      ∧ (∀ m, m ∈ l ↔ ∃ r, inL m.unit m.cls r ∧ m.band = r.band n.head m.cls)
      ∧ (loOfLoaded l ≤ hiOfLoaded l → (n.loading desired).deviation = residual - rc)
      ∧ (loOfLoaded l ≤ hiOfLoaded l → ∀ p, p ∈ (n.loading desired).setpoints ↔
          ∃ m c r, (m, c) ∈ contributions l rc ∧ n.unit m.unit = some r ∧ p.unit = m.unit
            ∧ p.state = (n.tracker m.unit).state
            ∧ (m.cls = .gen ∧ p.value = c.toNat
              ∨ m.cls = .pump ∧ r.kind = .variableSpeed ∧ p.value = (-c).toNat)))
  ∧ ∀ (l : List Loaded) (rc : Int), (∀ m ∈ l, m.band.lo ≤ m.band.hi) →
    loOfLoaded l ≤ rc → rc ≤ hiOfLoaded l →
      let span := hiOfLoaded l - loOfLoaded l
      let x := rc - loOfLoaded l
      let share (m : Loaded) : Int := if span = 0 then 0 else x * (m.band.hi - m.band.lo) / span
      let r := x - (l.map share).sum
      (contributions l rc).map (fun p => p.1) = l
        ∧ (∀ i m c, (contributions l rc)[i]? = some (m, c) →
            c = m.band.lo + share m + stepAt r.toNat l i)
        ∧ ((contributions l rc).map (fun p => p.2)).sum = rc
        ∧ ∀ p ∈ contributions l rc, p.1.band.lo ≤ p.2 ∧ p.2 ≤ p.1.band.hi

/-- A pump characteristic evaluated at a head (R16): the first value below the first breakpoint, the last
value above the last one, and between two neighbours their straight line rounded to the nearest integer,
halves away from zero. The bands of the three classes and their widths (R17). The pump band of a valid record is
no inverted band, its magnitudes lie within 0 to 6000, and a FIXED machine has one of them (R2, R17). -/
def Obligations.PumpBandFollowsTheCharacteristic : Prop :=
  (∀ (H : Nat) (pre post : List (Nat × Nat)) (a b : Nat × Nat),
    (pre ++ a :: b :: post).Pairwise (fun x y => x.1 < y.1) →
      let v := evalColumn H (pre ++ a :: b :: post)
      let den : Int := b.1 - a.1
      let num : Int := ((b.2 : Int) - a.2) * ((H : Int) - a.1)
      (pre = [] → H ≤ a.1 → v = a.2) ∧ (post = [] → b.1 ≤ H → v = b.2)
        ∧ (a.1 ≤ H → H ≤ b.1 → 2 * |(v - a.2) * den - num| ≤ den
            ∧ (2 * |(v - a.2) * den - num| = den → |num| < |(v - a.2) * den|)))
    ∧ (∀ (r : UnitRecord) (H : Nat), r.band H .gen = ⟨r.genMin, r.genMax⟩
      ∧ r.band H .pump = ⟨-(r.phi H), -(r.plo H)⟩ ∧ r.band H .off = ⟨0, 0⟩
      ∧ r.phi H = evalColumn H (r.points.map (fun b => (b.h, b.phi)))
      ∧ r.plo H = evalColumn H (r.points.map (fun b => (b.h, b.plo)))
      ∧ (r.band H .gen).width = r.genMax - r.genMin ∧ (r.band H .pump).width = r.phi H - r.plo H
      ∧ (r.band H .off).width = 0)
    ∧ ∀ (r : UnitRecord) (H : Nat), r.valid = true →
      0 ≤ r.plo H ∧ r.plo H ≤ r.phi H ∧ r.phi H ≤ 6000
        ∧ (r.kind = .fixedSpeed → r.plo H = r.phi H ∧ (r.band H .pump).width = 0)

/-! ## Management requests -/

/-- A READ changes nothing but for its one reply (R170, R172): the object's bytes, BAD_INDEX for an instance
that is not there, BAD_OBJECT for a code that names no object (R171). Any request during a reset, or
while one is awaited, is answered BUSY and changes nothing else (R171). A full own queue drops a reply with
U_OWN_OVERFLOW (R164, R170). -/
def Obligations.ReadAnswersAndBusyRefuses : Prop :=
  ∀ (s : State) (src : Byte) (req : BitVec 16),
    (∀ object index : Byte, s.takesRequests → ∃ t r, exec (.read src req object index) s = .next t
      ∧ s.counted.Answers t src req r
      ∧ (object = 1 → r = .ok s.settingsBytes) ∧ (object = 4 → r = .ok (meritBytes s.table.meritGen))
      ∧ (object = 5 → r = .ok (meritBytes s.table.meritPump)) ∧ (object = 8 → r = .ok s.errors.notice.bytes)
      ∧ (object = 11 → r = .ok s.queueBytes) ∧ (object = 12 → r = .ok s.statusPayload)
      ∧ (object = 13 → r = .ok s.counted.counterBytes) ∧ (object = 14 → r = .ok s.captureBytes)
      ∧ (object = 15 → r = .ok s.flagBytes)
      ∧ (∀ u, index.toNat = unitNumber u → (object = 2 → r = .ok (unitBytes (s.unit u)))
          ∧ (object = 9 → r = .ok (s.tracker u).bytes))
      ∧ (∀ g, index.toNat = groupNumber g → object = 3 → r = .ok (s.table.groups.get g).bytes)
      ∧ (∀ k : ClassId, index.toNat = k.val + 1 → object = 6 → r = .ok (s.classes.get k).bytes)
      ∧ (∀ k, index.toNat = kindNumber k → object = 7 → r = .ok [byteOf (severityCode (s.severityOf k))])
      ∧ (∀ c, index.toNat = convNumber c → object = 10 →
          ((s.conv c).state = .absent → r = .badIndex)
            ∧ ((s.conv c).state ≠ .absent → r = .ok (s.conv c).bytes))
      ∧ (object = 16 → r = readIndexed (s.lineInputBytes index.toNat))
      ∧ (object = 17 → r = readIndexed (s.descriptorBytes index.toNat))
      ∧ ((object = 2 ∨ object = 9) → (index = 0 ∨ 8 < index.toNat) → r = .badIndex)
      ∧ (object = 3 → (index = 0 ∨ 4 < index.toNat) → r = .badIndex)
      ∧ (object = 6 → (index = 0 ∨ 16 < index.toNat) → r = .badIndex)
      ∧ (object = 7 → (index = 0 ∨ 18 < index.toNat) → r = .badIndex)
      ∧ (object = 10 → (index = 0 ∨ 2 < index.toNat) → r = .badIndex)
      ∧ (object = 16 → (index = 0 ∨ 10 < index.toNat) → r = .badIndex)
      ∧ (object = 17 → (index = 0 ∨ 4 < index.toNat) → r = .badIndex)
      ∧ (object = 0 ∨ 17 < object.toNat → r = .badObject))
    ∧ ∀ c : Instr, c.sender = some (src, req) → c.wellFormed = true → s.busy = true →
      s.processing ≠ .deviceReset → s.settings.stationAddr ≤ 254 →
        ∃ t, exec c s = .next t ∧ s.counted.Answers t src req .busy

/-- A MGMT_REQUEST frame for the part, answered into the own queue or, when that is full, with its reply dropped
(R164, R170, R171, R191, section 11.2). One that spells a command is that command;
what stands behind the header of a READ or CLEAR is ignored (log entry 33). One that spells none is answered
and changes nothing else: BAD_OBJECT for a payload shorter than its header, with request number 0 below two
bytes, for a kind outside 1 to 4, for a WRITE or CLEAR of an object that does not take it and for an unknown
action; BAD_INDEX for a clear of a machine or converter that is not there; BAD_VALUE for an action with bytes
behind its header, and for a SCAN_CONFIG without its four. -/
def Obligations.RequestsAreSpelledOrAnswered : Prop :=
  ∀ (s : State) (dest src : Byte) (payload : List Byte), s.takesRequests → s.hears dest payload →
    let frame : Instr := .frameClassify .u dest src (kindCode .mgmtRequest) payload
    let answered (number : Nat) (r : Reply) : Prop :=
      ∃ t, exec frame s = .next t ∧ s.counted.Answers t src (BitVec.ofNat 16 number) r
    (payload.length < 2 → answered 0 .badObject)
    ∧ (∀ n1 n0 rest, payload = n1 :: n0 :: rest → rest.length < 3 → answered (nat16 n1 n0) .badObject)
    ∧ ∀ (n1 n0 kind object index : Byte) (rest : List Byte),
      payload = n1 :: n0 :: kind :: object :: index :: rest →
        let req := BitVec.ofNat 16 (nat16 n1 n0)
        let spoken (r : Reply) : Prop := answered (nat16 n1 n0) r
        (kind = 0 ∨ 4 < kind.toNat → spoken .badObject)
        ∧ (kind = 1 → exec frame s = exec (.read src req object index) s)
        ∧ (kind = 2 → (object = 0 ∨ 8 < object.toNat → spoken .badObject)
          ∧ ∀ c, (object, c) ∈ [((1 : Byte), Instr.writeSettings src req rest),
              (2, .writeUnit src req index rest), (3, .writeGroup src req index rest),
              (4, .writeMerit .gen src req rest), (5, .writeMerit .pump src req rest),
              (6, .writeClass src req index rest), (7, .writeSeverity src req index rest),
              (8, .writeNotice src req rest)] → exec frame s = exec c s)
        ∧ (kind = 3 → (object.toNat < 13 ∨ 16 < object.toNat → spoken .badObject)
          ∧ ∀ c, (object, c) ∈ [((13 : Byte), Instr.clearCounters src req), (14, .clearCapture src req),
              (15, .clearFlags src req), (16, .clearLine src req index)] → exec frame s = exec c s)
        ∧ (kind = 4 → (object = 0 ∨ 12 < object.toNat → spoken .badObject)
          ∧ (object = 2 → index = 0 ∨ 8 < index.toNat → spoken .badIndex)
          ∧ (object = 3 → (∀ c, index.toNat = convNumber c → (s.conv c).state = .absent) → spoken .badIndex)
          ∧ (rest ≠ [] → object ∈ [1, 4, 5, 6, 7, 8, 10, 11, 12]
              ∨ object = 2 ∧ (∃ u, index.toNat = unitNumber u)
              ∨ object = 3 ∧ (∃ c, index.toNat = convNumber c ∧ (s.conv c).state ≠ .absent) →
            spoken .badValue)
          ∧ (object = 9 → rest.length ≠ 4 → spoken .badValue)
          ∧ (∀ a b m p, object = 9 → rest = [a, b, m, p] →
              exec frame s = exec (.scanConfig src req a b m p) s)
          ∧ (rest = [] → ∀ c, (object, c) ∈ [((1 : Byte), Instr.solveNow src req),
              (2, .unitFaultClear src req index), (3, .converterClear src req index),
              (4, .estopClear src req), (5, .authoritySet src req index), (6, .scanStart src req),
              (7, .scanStop src req), (8, .scanStep src req), (10, .lineReset src req),
              (11, .engineReset src req), (12, .deviceReset src req)] → exec frame s = exec c s))

/-- WRITE of UNIT n (R3 to R6, R105, R171): a bad index, a bad value, the load of an ABSENT record, the
replacement of a PRESENT one with what it does to a pin that is served, a clearing write, and a clearing
write that the tracker's state refuses, with the reply joining the own queue or dropped by a full one (R164, R170).
Which records are BAD_VALUE: RecordsReadBackAsWritten. A load and a clear put the station's miss count at 0 (log entry 26), and a
clear takes the start queue entry out before its trigger, by the model's choice (log entry 28). -/
def Obligations.UnitWriteLoadsReplacesOrClears : Prop :=
  ∀ (s : State) (src : Byte) (req : BitVec 16) (index : Byte) (record : List Byte),
    s.takesRequests → recordFits record = true →
      ∃ x t r, exec (.writeUnit src req index record) s = .next t ∧ x.Answers t src req r
        ∧ ((∀ u, index.toNat ≠ unitNumber u) → x = s.counted ∧ r = .badIndex)
        ∧ ∀ u, index.toNat = unitNumber u →
          let stored (v : Option UnitRecord) : UnitTable :=
            { s.table with units := upd s.table.units u v }
          let misses : UnitLine := { s.line with misses := s.missesWith (unitNumber u) 0 }
          (readUnit record = none → r = .badValue ∧ s.counted.WriteRefused x (unitNumber u))
          ∧ (readUnit record = some none → s.unit u = none → x = s.counted ∧ r = .ok [])
          ∧ (readUnit record = some none → s.unit u ≠ none →
              ((s.tracker u).state ∉ [TState.idle, .notReady, .unknown, .lost, .faulted] →
                r = .refused .inUse ∧ s.counted.WriteRefused x (unitNumber u))
              ∧ ((s.tracker u).state ∈ [TState.idle, .notReady, .unknown, .lost, .faulted] →
                r = .ok [] ∧ x.table = stored none ∧ x.line = misses
                  ∧ x.queue = s.queue.filter (fun e => e.unit != u)
                  ∧ x.solver = (((s.setTable x.table).setQueue x.queue).fullTrigger .availability).solver
                  ∧ Unchanged [.table, .line, .queue, .solver] s.counted x))
          ∧ ∀ v, readUnit record = some (some v) → r = .ok [] ∧ v.valid = true ∧ x.table = stored (some v)
            ∧ (s.unit u = none → x.line = misses
                ∧ x.solver = ((s.setTable x.table).fullTrigger .availability).solver
                ∧ Unchanged [.table, .line, .solver] s.counted x)
            ∧ ∀ old, s.unit u = some old →
              let since := if (s.tracker u).state = .idle then (s.tracker u).restSince
                else (s.tracker u).runSince
              let before := if (s.tracker u).state = .idle then old.minRest else old.minRun
              let after := if (s.tracker u).state = .idle then v.minRest else v.minRun
              Unchanged [.table, .trackers, .solver] s.counted x
                ∧ (∀ w, w ≠ u → x.tracker w = s.tracker w)
                ∧ ((s.tracker u).pin ≠ .pinned ∨ before = after →
                    x.tracker u = s.tracker u ∧ x.solver = s.solver)
                ∧ ((s.tracker u).pin = .pinned → before ≠ after →
                    (s.tracker u).state ∈ [TState.idle, .gen, .pump] → ∀ a, since = some a →
                      (s.now < a + after → x.solver = s.solver
                        ∧ x.tracker u = { s.tracker u with pinEnd := some (a + after) })
                      ∧ (a + after ≤ s.now →
                        x.tracker u = { s.tracker u with pinEnd := some (a + after), pin := .served }
                        ∧ x.solver = (((s.setTable x.table).setTrackers x.trackers).fullTrigger .pin).solver))

/-- The other table writes (R10, R11, R159, R171, R173, R185, R186): each stores its whole record, or refuses it
with BAD_VALUE (which records: RecordsReadBackAsWritten), or answers BAD_INDEX for an instance that is not there;
none fires a trigger. A full own queue drops the reply alone (R164, R170). The station index of
a refusal is the instance, for CLASS 16 and SEVERITY 16 to 18 as well (log entry 16). -/
def Obligations.TableWritesStoreOrAreRefused : Prop :=
  ∀ (s : State) (src : Byte) (req : BitVec 16) (index : Byte) (record : List Byte),
    s.takesRequests → recordFits record = true →
      let takes (c : Instr) (station : Nat) (stored : Option State) : Prop :=
        ∃ t, exec c s = .next t ∧ s.counted.TakesWrite t src req station stored
      let noInstance (c : Instr) : Prop :=
        ∃ t, exec c s = .next t ∧ s.counted.Answers t src req .badIndex
      (∀ g, index.toNat = groupNumber g → takes (.writeGroup src req index record) (groupNumber g)
          ((readGroup record).map (fun v =>
            s.counted.setTable { s.table with groups := upd s.table.groups g v })))
        ∧ takes (.writeMerit .gen src req record) 0
          ((readMerit record).map (fun v => s.counted.setTable { s.table with meritGen := v }))
        ∧ takes (.writeMerit .pump src req record) 0
          ((readMerit record).map (fun v => s.counted.setTable { s.table with meritPump := v }))
        ∧ (∀ k : ClassId, index.toNat = k.val + 1 → takes (.writeClass src req index record) (k.val + 1)
          ((readClass record).map (fun v => s.counted.setClasses (upd s.classes k v))))
        ∧ (∀ i : Fin 18, index.toNat = i.val + 1 →
          takes (.writeSeverity src req index record) (i.val + 1) ((readSeverity record).map (fun v =>
            s.counted.setErrors { s.errors with severity := upd s.errors.severity i v })))
        ∧ takes (.writeNotice src req record) 0 ((readNotice s.settings.stationAddr record).map (fun v =>
            s.counted.setErrors { s.errors with notice := v }))
        ∧ (index = 0 ∨ 4 < index.toNat → noInstance (.writeGroup src req index record))
        ∧ (index = 0 ∨ 16 < index.toNat → noInstance (.writeClass src req index record))
        ∧ (index = 0 ∨ 18 < index.toNat → noInstance (.writeSeverity src req index record))

/-- WRITE of SETTINGS (R174, R175, section 11.2). The record is a mask of four bytes and the fields that it marks, in
ascending bit order; the record it leaves has those at their values and the rest as before. A field out of its
range, a wrong length and a record that fails the cross-field checks (R30, R168) leave none. A write-once field a
second time is WRITE_ONCE, a bad field or record is BAD_VALUE, each with TABLE_WRITE_REFUSED. Otherwise every written field is stored first, and each owner
applies its effects to the state `y`: the limits clamp the targets (R30), the order and the head may go
stale (R14, R33), a design head becomes H (R13, R42), the re-solve timer (R43) and the status timer
(R166) take their new times, a second converter is fitted (R116). Last come the trip lines whose sense
turns from EDGE to LEVEL while they are asserted (R181) and the walk of what they fault. The effects come in
the order of the fields (log entry 10). -/
def Obligations.SettingsWriteStoresThenApplies : Prop :=
  (∀ (t : Settings) (mask : Nat) (raw : Nat → Nat) (body : List Byte), mask ≤ 4294967295 →
    (∀ i, raw i ≤ if i ∈ wideSettings then 65535 else 255) →
      let record := be32 mask ++ body
      let writes (i : Nat) : Prop := i < 31 ∧ mask.testBit i = true
      settingsMask record = some mask
      ∧ (writesOnceAgain t record = true ↔
          mask.testBit 0 = true ∧ t.stationUsed = true ∨ mask.testBit 1 = true ∧ t.fittedUsed = true)
      ∧ (body.length ≠ settingsLength mask → readSettings t record = none)
      ∧ (body = settingsBody mask raw →
        ((∃ i, writes i ∧ ¬ SettingTakes i (raw i)) → readSettings t record = none)
        ∧ (¬ (t.written mask raw).Consistent → readSettings t record = none)
        ∧ ((∀ i, writes i → SettingTakes i (raw i)) → (t.written mask raw).Consistent →
            readSettings t record = some (t.written mask raw))))
  ∧ (∀ (t : Settings) (record : List Byte), record.length < 4 →
      readSettings t record = none ∧ writesOnceAgain t record = false)
  ∧ ∀ (s : State) (src : Byte) (req : BitVec 16) (record : List Byte),
    s.takesRequests → recordFits record = true →
      ∃ x t r, exec (.writeSettings src req record) s = .next t ∧ x.Answers t src req r
        ∧ (writesOnceAgain s.settings record = true → r = .writeOnce ∧ s.counted.WriteRefused x 0)
        ∧ (writesOnceAgain s.settings record = false → readSettings s.settings record = none →
            r = .badValue ∧ s.counted.WriteRefused x 0)
        ∧ ∀ v mask, writesOnceAgain s.settings record = false → readSettings s.settings record = some v →
          settingsMask record = some mask → r = .ok [] ∧ ∃ y,
            let o := s.settings
            let limits := v.plantMin ≠ o.plantMin ∨ v.plantMax ≠ o.plantMax
            let kept (p : Int) : Int := max v.plantMin (min v.plantMax p)
            let tf := if limits then kept s.target.tf else s.target.tf
            let te := if limits then kept s.target.te else s.target.te
            let clamped := { s.target with
              tf := tf, te := te, rampNext := if limits ∧ te = tf then none else s.target.rampNext }
            let late := o.orderTimeout ≠ v.orderTimeout ∧ s.isRemote = true ∧ v.orderTimeout ≠ 0
              ∧ s.target.staleOrder = false ∧ s.target.orderRef + v.orderTimeout ≤ s.now
            let newHead := o.designHead ≠ v.designHead ∧ s.table.headValid = false
            let aged := o.headStaleTime ≠ v.headStaleTime ∧ s.table.headStale = false
              ∧ s.table.headRef + v.headStaleTime ≤ s.now
            let timed := mask.testBit 15 = true ∧ s.isRemote = true
            let z := s.setSettings v
            let recorded := y.setPort { y.port with statusNext := s.port.statusNext }
            x = State.walkAfter s.counted (allUnits.foldl (fun acc u =>
                if o.senses.get u = .edge ∧ v.senses.get u = .level ∧ s.inputs.tripLevel.get u = true
                then acc.assertTrip u else acc) y)
            ∧ y.settings = v
            ∧ y.target = (if late then { s.target with
                tf := te, te := te, rampNext := none, staleOrder := true } else clamped)
            ∧ y.table = { s.table with
                head := if newHead then v.designHead else s.table.head
                headStale := if aged then true else s.table.headStale }
            ∧ (¬ (o.fitted = 1 ∧ v.fitted = 2) → y.convs = s.convs ∧ y.line = s.line)
            ∧ (o.fitted = 1 → v.fitted = 2 → s.ConvEnters y 1 .unknown .noCause
                ∧ y.line = { s.line with misses := s.missesWith 10 0 })
            ∧ y.port.statusNext = (if o.statusInterval = v.statusInterval then s.port.statusNext
                else max s.now (s.port.statusLast + v.statusInterval))
            ∧ (¬ late → ¬ aged → recorded.port = s.counted.port ∧ y.errors = s.errors)
            ∧ (late → ¬ aged → s.ownHasPlace → z.counted.Records recorded (detection .orderStale 0))
            ∧ (¬ late → aged → s.ownHasPlace → z.counted.Records recorded (detection .headStale 0))
            ∧ (tf = s.target.tf → te = s.target.te → ¬ newHead → ¬ timed → y.solver = s.solver)
            ∧ (tf ≠ s.target.tf → ¬ newHead → ¬ timed →
                y.solver = ((z.setTarget clamped).fullTrigger .target).solver)
            ∧ (tf = s.target.tf → te ≠ s.target.te → ¬ newHead → ¬ timed →
                y.solver = (z.setTarget clamped).loadTrigger.solver)
            ∧ (tf = s.target.tf → te = s.target.te → ¬ late → newHead → ¬ timed → y.solver =
                if (s.solver.headRef + v.headDeadband < v.designHead
                    ∨ v.designHead + v.headDeadband < s.solver.headRef)
                then ((z.setTable { s.table with head := v.designHead }).fullTrigger .head).solver
                else s.solver)
            ∧ (tf = s.target.tf → te = s.target.te → ¬ late → ¬ newHead → timed →
                (v.resolvePeriod = 0 ∨ s.solver.lastFullStart = none →
                  y.solver = { s.solver with resolveNext := none })
                ∧ ∀ a, v.resolvePeriod ≠ 0 → s.solver.lastFullStart = some a →
                  (s.now < a + v.resolvePeriod →
                    y.solver = { s.solver with resolveNext := some (a + v.resolvePeriod) })
                  ∧ (a + v.resolvePeriod ≤ s.now → y.solver = ((z.setSolver { s.solver with
                      resolveNext := some (s.now + v.resolvePeriod) }).fullTrigger .period).solver))
            ∧ Unchanged [.settings, .target, .table, .solver, .convs, .line, .errors, .port] s y

/-- The CLEARs (R176, R182, R184, R186, R188): the counters and traffic counts, the capture, the flags, or one
line's flag return to their reset values, and OK is the answer. The flag of a LEVEL line that is
asserted stays (R182); a line that is not there is BAD_INDEX. -/
def Obligations.ClearsReturnToResetValues : Prop :=
  ∀ (s : State) (src : Byte) (req : BitVec 16), s.takesRequests →
    let takes (c : Instr) (x : State) (r : Reply) : Prop :=
      ∃ t, exec c s = .next t ∧ x.Answers t src req r
    takes (.clearCounters src req)
        ((s.setPort { s.port with traffic := ⟨0, 0, 0, 0, 0, 0⟩ }).setErrors
          { s.errors with counters := Vector.replicate 18 0, orderSource := 0 }) (.ok [])
      ∧ takes (.clearCapture src req) (s.counted.setErrors { s.errors with capture := none }) (.ok [])
      ∧ takes (.clearFlags src req) (s.counted.setErrors { s.errors with
          detected := Vector.replicate 18 false, classFlags := ⟨false, false, false⟩ }) (.ok [])
      ∧ ∀ index : Byte,
        (∀ u, index.toNat = unitNumber u → takes (.clearLine src req index)
          (if s.settings.senses.get u = .level ∧ s.inputs.tripLevel.get u = true then s.counted
            else s.counted.setInputs { s.inputs with tripFlag := upd s.inputs.tripFlag u false })
          (.ok []))
        ∧ (index = 9 → takes (.clearLine src req index)
            (s.counted.setInputs { s.inputs with estopFlag := false }) (.ok []))
        ∧ (index = 10 → takes (.clearLine src req index)
            (if s.inputs.localLevel = true then s.counted
              else s.counted.setInputs { s.inputs with localFlag := false }) (.ok []))
        ∧ (index = 0 ∨ 10 < index.toNat → takes (.clearLine src req index) s.counted .badIndex)

/-- The actions that solve, clear faults and set the authority (R177): SOLVE_NOW is a MANUAL trigger in REMOTE
only (R44); UNIT_FAULT_CLEAR moves a FAULTED machine at rest to IDLE or NOT_READY (R100); CONVERTER_CLEAR
moves a FAULTED converter that reports IDLE to FREE (R127); ESTOP_CLEAR clears the latch into LOCAL
(R23); AUTHORITY_SET stores its value and makes the transition that changes the derived value (R19,
R20). Each of them answers as its rule says when it is not taken. -/
def Obligations.ActionsActOrAreRefused : Prop :=
  ∀ (s : State) (src : Byte) (req : BitVec 16) (index : Byte), s.takesRequests →
    let takes (c : Instr) (x : State) (r : Reply) : Prop :=
      ∃ t, exec c s = .next t ∧ x.Answers t src req r
    (s.isRemote = true → takes (.solveNow src req) (s.counted.fullTrigger .manual) (.ok []))
    ∧ (s.isRemote = false → takes (.solveNow src req) s.counted (.refused .notRemote))
    ∧ (index = 0 ∨ 8 < index.toNat → takes (.unitFaultClear src req index) s.counted .badIndex)
    ∧ (∀ u, index.toNat = unitNumber u →
      ((s.tracker u).state ≠ .faulted → takes (.unitFaultClear src req index) s.counted (.ok []))
      ∧ ((s.tracker u).state = .faulted →
        (s.held u = true → takes (.unitFaultClear src req index) s.counted (.refused .lineAsserted))
        ∧ (s.held u = false → ¬ ((s.tracker u).rptValid = true ∧ (s.tracker u).rptMode = .atRest) →
          takes (.unitFaultClear src req index) s.counted (.refused .notAtRest))
        ∧ (s.held u = false → (s.tracker u).rptValid = true → (s.tracker u).rptMode = .atRest →
          ∃ x, takes (.unitFaultClear src req index) x (.ok []) ∧ s.counted.Enters x u
              (if (s.tracker u).rptReady = true then .idle else .notReady) none .noCause
            ∧ Unchanged [.trackers, .queue, .solver] s.counted x)))
    ∧ (index = 0 ∨ 2 < index.toNat → takes (.converterClear src req index) s.counted .badIndex)
    ∧ (∀ c, index.toNat = convNumber c →
      ((s.conv c).state = .absent → takes (.converterClear src req index) s.counted .badIndex)
      ∧ ((s.conv c).state ≠ .absent → (s.conv c).state ≠ .faulted →
        takes (.converterClear src req index) s.counted (.ok []))
      ∧ ((s.conv c).state = .faulted →
        (¬ ((s.conv c).rptValid = true ∧ (s.conv c).rptMode = .idle) →
          takes (.converterClear src req index) s.counted (.refused .notAtRest))
        ∧ ((s.conv c).rptValid = true → (s.conv c).rptMode = .idle →
          ∃ y, takes (.converterClear src req index) (State.walkAfter s.counted y) (.ok [])
            ∧ s.counted.ConvEnters y c .free .noCause ∧ Unchanged [.convs] s.counted y)))
    ∧ (s.target.estopLatch = false → takes (.estopClear src req) s.counted (.ok []))
    ∧ (s.target.estopLatch = true →
      (s.inputs.estopLevel = true → takes (.estopClear src req) s.counted (.refused .lineAsserted))
      ∧ (s.inputs.estopLevel = false → takes (.estopClear src req)
        (s.counted.setTarget { s.target with estopLatch := false, setting := .localControl }) (.ok [])))
    ∧ (1 < index.toNat → takes (.authoritySet src req index) s.counted .badValue)
    ∧ (index.toNat ≤ 1 → s.settings.plantMin ≤ s.settings.plantMax →
      let x := s.counted.setTarget { s.target with
        setting := if index = 0 then .remote else .localControl }
      ∃ y, takes (.authoritySet src req index) (State.walkAfter s.counted y) (.ok [])
        ∧ (s.authority = x.authority → y = x)
        ∧ (s.authority = .remote → x.authority = .localControl → x.LeavesRemote y)
        ∧ (s.authority = .localControl → x.authority = .remote → x.EntersRemote y)
        ∧ (x.authority = .remote ↔
            s.target.estopLatch = false ∧ s.inputs.localLevel = false ∧ index = 0))

/-- The scan's actions (R145 to R148, R177): SCAN_START restarts the scan, whose poll in flight no longer
advances it; SCAN_STOP stops it at once or after the poll in flight; SCAN_STEP gives the step credit in
STEP, or is BUSY with it held (log entry 14); SCAN_CONFIG stores its four values and restarts, or is BAD_VALUE. -/
def Obligations.ScanActionsSteerTheScan : Prop :=
  ∀ (s : State) (src : Byte) (req : BitVec 16), s.takesRequests →
    let takes (c : Instr) (x : State) (r : Reply) : Prop :=
      ∃ t, exec c s = .next t ∧ x.Answers t src req r
    let polling := (∃ a adv f, s.line.activity = .sending (.poll a adv) f)
      ∨ ∃ a adv n e, s.line.activity = .window a adv n e
    let restarted (l : UnitLine) : State := (s.counted.setLine { l with
      nextAddr := l.scanStart, stopPending := false, stepCredit := false, scan := .running
      activity := match l.activity with
        | .sending (.poll a _) f => .sending (.poll a false) f
        | .window a _ n e => .window a false n e
        | other => other }).lineChoose
    takes (.scanStart src req) (restarted s.line) (.ok [])
      ∧ (s.line.scan = .stopped → takes (.scanStop src req) s.counted (.ok []))
      ∧ (s.line.scan ≠ .stopped → polling →
          takes (.scanStop src req) (s.counted.setLine { s.line with stopPending := true }) (.ok []))
      ∧ (s.line.scan ≠ .stopped → ¬ polling →
          takes (.scanStop src req) (s.counted.setLine { s.line with scan := .stopped }) (.ok []))
      ∧ (s.line.scanMode ≠ .step → takes (.scanStep src req) s.counted (.ok []))
      ∧ (s.line.scanMode = .step →
        (s.line.stepCredit = true → takes (.scanStep src req) s.counted .busy)
        ∧ (s.line.stepCredit = false → s.line.scan = .stopped →
          takes (.scanStep src req) s.counted (.ok []))
        ∧ (s.line.stepCredit = false → s.line.scan ≠ .stopped → takes (.scanStep src req)
          (s.counted.setLine { s.line with stepCredit := true }).lineChoose (.ok [])))
      ∧ ∀ a b m p : Byte,
        (∀ mode protection, 1 ≤ a.toNat → a.toNat ≤ 15 → 1 ≤ b.toNat → b.toNat ≤ 15 →
          [ScanMode.continuous, .single, .step][m.toNat]? = some mode →
          [Protection.protect, .overwrite][p.toNat]? = some protection →
            takes (.scanConfig src req a b m p) (restarted { s.line with
              scanStart := a.toNat, scanEnd := b.toNat, scanMode := mode, protection := protection })
              (.ok []))
        ∧ (a = 0 ∨ 15 < a.toNat ∨ b = 0 ∨ 15 < b.toNat ∨ 2 < m.toNat ∨ 1 < p.toNat →
          takes (.scanConfig src req a b m p) s.counted .badValue)

/-! ## Resets -/

/-- LINE_RESET (R151) is answered, then empties the line's queues, cuts what it sends or waits for, and puts
misses and scan back; its end frees the line. ENGINE_RESET (R63, R107, R131, R178) is answered, then
forgets every plan and re-learns the plant (an ABSENT converter's last report is invalid too, log entry 26; an
UNKNOWN converter's entry time is the present one, by the model's choice, log entry 32);
at its end the solver acts on its latches. -/
def Obligations.LineAndEngineResetBeginAndEnd : Prop :=
  ∀ (s : State) (src : Byte) (req : BitVec 16),
    (s.takesRequests → ∃ x t, exec (.lineReset src req) s = .next t
      ∧ s.counted.Answers x src req (.ok []) ∧ Unchanged [.line] x t
      ∧ t.line = { s.line with
          orders := [], forwardDown := [], activity := .resetting
          rx := if s.line.rx = none then none else some .uncounted
          misses := Vector.replicate 15 0, nextAddr := s.line.scanStart, stopPending := false
          stepCredit := false, scan := .running })
    ∧ (s.processing ≠ .deviceReset → s.line.activity = .resetting → ∃ t, exec .lineResetEnd s = .next t
      ∧ t = (s.setLine { s.line with activity := .idle }).lineChoose)
    ∧ (s.takesRequests → ∃ x t, exec (.engineReset src req) s = .next t
      ∧ s.counted.Answers x src req (.ok []) ∧ t.processing = .engineReset ∧ t.queue = []
      ∧ t.target = { s.target with tf := s.target.te, holdFlag := false, rampNext := none }
      ∧ t.solver = { s.solver with
          phase := .idle, fullPending := false, loadPending := false, deviation := 0
          discarded := match s.solver.phase with
            | .full _ => satInc s.solver.discarded
            | _ => s.solver.discarded }
      ∧ (∀ u, t.tracker u = { s.tracker u with
          state := .unknown, entryTime := s.now, deadline := none, stopOrigin := none, granted := none
          faultCause := .noCause, faultState := none, rptValid := false, runSince := none
          restSince := none, pin := .noPin, pinEnd := none, lastSent := none })
      ∧ (∀ c, (s.conv c).state ≠ .absent → t.conv c = { s.conv c with
          state := .unknown, entryTime := s.now, deadline := none, cause := .noCause
          rptValid := false })
      ∧ (∀ c, (s.conv c).state = .absent → t.conv c = { s.conv c with rptValid := false })
      ∧ Unchanged [.processing, .queue, .target, .solver, .trackers, .convs] x t)
    ∧ (s.processing = .engineReset → ∃ t, exec .engineResetEnd s = .next t ∧ t.processing = .none
      ∧ (s.solver.fullPending = true →
          Solver.StartedFull s { s.solver with fullPending := false } t.solver)
      ∧ (s.solver.fullPending = false → s.solver.loadPending = true → ∃ n : Snapshot, n.Holds s
          ∧ t.solver = { s.solver with phase := .load n, loadPending := false })
      ∧ (s.solver.fullPending = false → s.solver.loadPending = false →
          t.solver = { s.solver with phase := .idle })
      ∧ Unchanged [.processing, .solver] s t)

/-- DEVICE_RESET (R165, R179): its reply takes the head of the own queue, ahead of what waits, where in a full queue
the newest frame gives way with U_OWN_OVERFLOW, and further requests are BUSY until it has gone; the end of its
transmission, or the reset pin at once, begins the processing, which holds the reset values (log entry 7). During it
no command has an effect but on the level of a line or the pin, and receptions are only begun and discarded (R152,
R179, R181). Its end leaves the reset values and starts
the scan; the lines found asserted then act: ESTOP latches and a trip line faults its machine (R21,
R97, R181, R182). -/
def Obligations.DeviceResetBeginsAndEnds : Prop :=
  ∀ (s : State) (src : Byte) (req : BitVec 16),
    let flagless : Inputs := { s.inputs with
      tripFlag := Vector.replicate 8 false, estopFlag := false, localFlag := false }
    let fresh (i : Inputs) (p : Processing) (a : LineActivity) : State := { State.reset with
      inputs := i, processing := p, pending := s.pending
      line := { State.reset.line with
        activity := a, rx := if s.line.rx = none then none else some .uncounted } }
    (s.takesRequests → ∃ t, exec (.deviceReset src req) s = .next t ∧ t.resetAwaiting = true
      ∧ (let reply : OwnFrame := ⟨s.replyFrame src.toNat req.toNat (.ok []), true⟩
        let ahead (waiting : List OwnFrame) : DispatchPort := match s.port.tx with
          | some _ => { s.counted.port with own := reply :: waiting }
          | none => { s.counted.port with own := waiting, tx := some reply }
        (s.ownHasPlace → t.port = ahead s.port.own ∧ Unchanged [.port, .resetAwaiting] s t)
        ∧ (¬ s.ownHasPlace → t = ((s.setPort (ahead s.port.own.dropLast)).detectAt .uOwnOverflow
            0).setResetAwaiting true)))
    ∧ (s.processing = .deviceReset →
      (∀ c : Instr, c.reception = none → (∀ u, c ≠ .tripLineAssert u ∧ c ≠ .tripLineDeassert u) →
        c ∉ [Instr.emergencyStopEdge, .emergencyStopRelease, .localRemoteAssert, .localRemoteDeassert,
          .receptionStart, .receptionLimit, .resetPin, .resetPinRelease, .deviceResetEnd] →
          exec c s = .next s)
      ∧ (∀ c : Instr, c.reception ≠ none ∨ c = .receptionLimit →
          exec c s = .next (s.setLine { s.line with rx := none }))
      ∧ ∀ asserted : Bool,
        (∀ u, exec (if asserted then .tripLineAssert u else .tripLineDeassert u) s
          = .next (s.setInputs { s.inputs with tripLevel := upd s.inputs.tripLevel u asserted }))
        ∧ exec (if asserted then .emergencyStopEdge else .emergencyStopRelease) s
          = .next (s.setInputs { s.inputs with estopLevel := asserted })
        ∧ exec (if asserted then .localRemoteAssert else .localRemoteDeassert) s
          = .next (s.setInputs { s.inputs with localLevel := asserted }))
    ∧ (s.processing ≠ .deviceReset → ∀ x, s.port.tx = some x → x.resetReply = true →
        ∃ t, exec .dispatchTxEnd s = .next t ∧ t = fresh flagless .deviceReset .resetting)
    ∧ (∃ t, exec .resetPin s = .next t
        ∧ t = fresh { flagless with resetPinLow := true } .deviceReset .resetting)
    ∧ (s.processing = .deviceReset → s.inputs.resetPinLow = false →
        ∃ t, exec .deviceResetEnd s = .next t
          ∧ ((∀ u, s.inputs.tripLevel.get u = false) → s.inputs.estopLevel = false →
              s.inputs.localLevel = false → t = fresh flagless .none
                (.sending (.poll 1 true) (mkFrame 1 240 .poll [])))
          ∧ t.target = { TargetRamp.reset with estopLatch := s.inputs.estopLevel }
          ∧ t.inputs = { s.inputs with
              tripFlag := s.inputs.tripLevel, estopFlag := s.inputs.estopLevel
              localFlag := s.inputs.localLevel }
          ∧ (∀ u, t.tracker u = if s.inputs.tripLevel.get u = true then
              { Tracker.reset with
                state := .faulted, faultCause := .tripLine, faultState := some .unknown }
              else Tracker.reset)
          ∧ Unchanged [.target, .inputs, .trackers, .errors, .line, .port]
              (fresh flagless .none .idle) t)

end Statements
end

