-- ==== Sys2Proof/Laws/State.lean ====
section
/-! SUPPORT. What each update of a block leaves in each field of the state: one lemma for each field and
update, and frames of updates as lists of blocks. -/
namespace Sys2Proof.Machine

@[simp] theorem State.setSettings_settings (s : State) (x) : (s.setSettings x).settings = x := rfl
@[simp] theorem State.setSettings_table (s : State) (x) : (s.setSettings x).table = s.table := rfl
@[simp] theorem State.setSettings_target (s : State) (x) : (s.setSettings x).target = s.target := rfl
@[simp] theorem State.setSettings_solver (s : State) (x) : (s.setSettings x).solver = s.solver := rfl
@[simp] theorem State.setSettings_trackers (s : State) (x) : (s.setSettings x).trackers = s.trackers := rfl
@[simp] theorem State.setSettings_queue (s : State) (x) : (s.setSettings x).queue = s.queue := rfl
@[simp] theorem State.setSettings_convs (s : State) (x) : (s.setSettings x).convs = s.convs := rfl
@[simp] theorem State.setSettings_line (s : State) (x) : (s.setSettings x).line = s.line := rfl
@[simp] theorem State.setSettings_classes (s : State) (x) : (s.setSettings x).classes = s.classes := rfl
@[simp] theorem State.setSettings_port (s : State) (x) : (s.setSettings x).port = s.port := rfl
@[simp] theorem State.setSettings_inputs (s : State) (x) : (s.setSettings x).inputs = s.inputs := rfl
@[simp] theorem State.setSettings_errors (s : State) (x) : (s.setSettings x).errors = s.errors := rfl
@[simp] theorem State.setSettings_processing (s : State) (x) : (s.setSettings x).processing = s.processing := rfl
@[simp] theorem State.setSettings_resetAwaiting (s : State) (x) : (s.setSettings x).resetAwaiting = s.resetAwaiting := rfl
@[simp] theorem State.setSettings_pending (s : State) (x) : (s.setSettings x).pending = s.pending := rfl
@[simp] theorem State.setSettings_self (s : State) : s.setSettings s.settings = s := rfl
@[simp] theorem State.setSettings_setSettings (s : State) (x y) : (s.setSettings x).setSettings y = s.setSettings y := rfl

@[simp] theorem State.setTable_settings (s : State) (x) : (s.setTable x).settings = s.settings := rfl
@[simp] theorem State.setTable_table (s : State) (x) : (s.setTable x).table = x := rfl
@[simp] theorem State.setTable_target (s : State) (x) : (s.setTable x).target = s.target := rfl
@[simp] theorem State.setTable_solver (s : State) (x) : (s.setTable x).solver = s.solver := rfl
@[simp] theorem State.setTable_trackers (s : State) (x) : (s.setTable x).trackers = s.trackers := rfl
@[simp] theorem State.setTable_queue (s : State) (x) : (s.setTable x).queue = s.queue := rfl
@[simp] theorem State.setTable_convs (s : State) (x) : (s.setTable x).convs = s.convs := rfl
@[simp] theorem State.setTable_line (s : State) (x) : (s.setTable x).line = s.line := rfl
@[simp] theorem State.setTable_classes (s : State) (x) : (s.setTable x).classes = s.classes := rfl
@[simp] theorem State.setTable_port (s : State) (x) : (s.setTable x).port = s.port := rfl
@[simp] theorem State.setTable_inputs (s : State) (x) : (s.setTable x).inputs = s.inputs := rfl
@[simp] theorem State.setTable_errors (s : State) (x) : (s.setTable x).errors = s.errors := rfl
@[simp] theorem State.setTable_processing (s : State) (x) : (s.setTable x).processing = s.processing := rfl
@[simp] theorem State.setTable_resetAwaiting (s : State) (x) : (s.setTable x).resetAwaiting = s.resetAwaiting := rfl
@[simp] theorem State.setTable_pending (s : State) (x) : (s.setTable x).pending = s.pending := rfl
@[simp] theorem State.setTable_self (s : State) : s.setTable s.table = s := rfl
@[simp] theorem State.setTable_setTable (s : State) (x y) : (s.setTable x).setTable y = s.setTable y := rfl

@[simp] theorem State.setTarget_settings (s : State) (x) : (s.setTarget x).settings = s.settings := rfl
@[simp] theorem State.setTarget_table (s : State) (x) : (s.setTarget x).table = s.table := rfl
@[simp] theorem State.setTarget_target (s : State) (x) : (s.setTarget x).target = x := rfl
@[simp] theorem State.setTarget_solver (s : State) (x) : (s.setTarget x).solver = s.solver := rfl
@[simp] theorem State.setTarget_trackers (s : State) (x) : (s.setTarget x).trackers = s.trackers := rfl
@[simp] theorem State.setTarget_queue (s : State) (x) : (s.setTarget x).queue = s.queue := rfl
@[simp] theorem State.setTarget_convs (s : State) (x) : (s.setTarget x).convs = s.convs := rfl
@[simp] theorem State.setTarget_line (s : State) (x) : (s.setTarget x).line = s.line := rfl
@[simp] theorem State.setTarget_classes (s : State) (x) : (s.setTarget x).classes = s.classes := rfl
@[simp] theorem State.setTarget_port (s : State) (x) : (s.setTarget x).port = s.port := rfl
@[simp] theorem State.setTarget_inputs (s : State) (x) : (s.setTarget x).inputs = s.inputs := rfl
@[simp] theorem State.setTarget_errors (s : State) (x) : (s.setTarget x).errors = s.errors := rfl
@[simp] theorem State.setTarget_processing (s : State) (x) : (s.setTarget x).processing = s.processing := rfl
@[simp] theorem State.setTarget_resetAwaiting (s : State) (x) : (s.setTarget x).resetAwaiting = s.resetAwaiting := rfl
@[simp] theorem State.setTarget_pending (s : State) (x) : (s.setTarget x).pending = s.pending := rfl
@[simp] theorem State.setTarget_self (s : State) : s.setTarget s.target = s := rfl
@[simp] theorem State.setTarget_setTarget (s : State) (x y) : (s.setTarget x).setTarget y = s.setTarget y := rfl

@[simp] theorem State.setSolver_settings (s : State) (x) : (s.setSolver x).settings = s.settings := rfl
@[simp] theorem State.setSolver_table (s : State) (x) : (s.setSolver x).table = s.table := rfl
@[simp] theorem State.setSolver_target (s : State) (x) : (s.setSolver x).target = s.target := rfl
@[simp] theorem State.setSolver_solver (s : State) (x) : (s.setSolver x).solver = x := rfl
@[simp] theorem State.setSolver_trackers (s : State) (x) : (s.setSolver x).trackers = s.trackers := rfl
@[simp] theorem State.setSolver_queue (s : State) (x) : (s.setSolver x).queue = s.queue := rfl
@[simp] theorem State.setSolver_convs (s : State) (x) : (s.setSolver x).convs = s.convs := rfl
@[simp] theorem State.setSolver_line (s : State) (x) : (s.setSolver x).line = s.line := rfl
@[simp] theorem State.setSolver_classes (s : State) (x) : (s.setSolver x).classes = s.classes := rfl
@[simp] theorem State.setSolver_port (s : State) (x) : (s.setSolver x).port = s.port := rfl
@[simp] theorem State.setSolver_inputs (s : State) (x) : (s.setSolver x).inputs = s.inputs := rfl
@[simp] theorem State.setSolver_errors (s : State) (x) : (s.setSolver x).errors = s.errors := rfl
@[simp] theorem State.setSolver_processing (s : State) (x) : (s.setSolver x).processing = s.processing := rfl
@[simp] theorem State.setSolver_resetAwaiting (s : State) (x) : (s.setSolver x).resetAwaiting = s.resetAwaiting := rfl
@[simp] theorem State.setSolver_pending (s : State) (x) : (s.setSolver x).pending = s.pending := rfl
@[simp] theorem State.setSolver_self (s : State) : s.setSolver s.solver = s := rfl
@[simp] theorem State.setSolver_setSolver (s : State) (x y) : (s.setSolver x).setSolver y = s.setSolver y := rfl

@[simp] theorem State.setTrackers_settings (s : State) (x) : (s.setTrackers x).settings = s.settings := rfl
@[simp] theorem State.setTrackers_table (s : State) (x) : (s.setTrackers x).table = s.table := rfl
@[simp] theorem State.setTrackers_target (s : State) (x) : (s.setTrackers x).target = s.target := rfl
@[simp] theorem State.setTrackers_solver (s : State) (x) : (s.setTrackers x).solver = s.solver := rfl
@[simp] theorem State.setTrackers_trackers (s : State) (x) : (s.setTrackers x).trackers = x := rfl
@[simp] theorem State.setTrackers_queue (s : State) (x) : (s.setTrackers x).queue = s.queue := rfl
@[simp] theorem State.setTrackers_convs (s : State) (x) : (s.setTrackers x).convs = s.convs := rfl
@[simp] theorem State.setTrackers_line (s : State) (x) : (s.setTrackers x).line = s.line := rfl
@[simp] theorem State.setTrackers_classes (s : State) (x) : (s.setTrackers x).classes = s.classes := rfl
@[simp] theorem State.setTrackers_port (s : State) (x) : (s.setTrackers x).port = s.port := rfl
@[simp] theorem State.setTrackers_inputs (s : State) (x) : (s.setTrackers x).inputs = s.inputs := rfl
@[simp] theorem State.setTrackers_errors (s : State) (x) : (s.setTrackers x).errors = s.errors := rfl
@[simp] theorem State.setTrackers_processing (s : State) (x) : (s.setTrackers x).processing = s.processing := rfl
@[simp] theorem State.setTrackers_resetAwaiting (s : State) (x) : (s.setTrackers x).resetAwaiting = s.resetAwaiting := rfl
@[simp] theorem State.setTrackers_pending (s : State) (x) : (s.setTrackers x).pending = s.pending := rfl
@[simp] theorem State.setTrackers_self (s : State) : s.setTrackers s.trackers = s := rfl
@[simp] theorem State.setTrackers_setTrackers (s : State) (x y) : (s.setTrackers x).setTrackers y = s.setTrackers y := rfl

@[simp] theorem State.setQueue_settings (s : State) (x) : (s.setQueue x).settings = s.settings := rfl
@[simp] theorem State.setQueue_table (s : State) (x) : (s.setQueue x).table = s.table := rfl
@[simp] theorem State.setQueue_target (s : State) (x) : (s.setQueue x).target = s.target := rfl
@[simp] theorem State.setQueue_solver (s : State) (x) : (s.setQueue x).solver = s.solver := rfl
@[simp] theorem State.setQueue_trackers (s : State) (x) : (s.setQueue x).trackers = s.trackers := rfl
@[simp] theorem State.setQueue_queue (s : State) (x) : (s.setQueue x).queue = x := rfl
@[simp] theorem State.setQueue_convs (s : State) (x) : (s.setQueue x).convs = s.convs := rfl
@[simp] theorem State.setQueue_line (s : State) (x) : (s.setQueue x).line = s.line := rfl
@[simp] theorem State.setQueue_classes (s : State) (x) : (s.setQueue x).classes = s.classes := rfl
@[simp] theorem State.setQueue_port (s : State) (x) : (s.setQueue x).port = s.port := rfl
@[simp] theorem State.setQueue_inputs (s : State) (x) : (s.setQueue x).inputs = s.inputs := rfl
@[simp] theorem State.setQueue_errors (s : State) (x) : (s.setQueue x).errors = s.errors := rfl
@[simp] theorem State.setQueue_processing (s : State) (x) : (s.setQueue x).processing = s.processing := rfl
@[simp] theorem State.setQueue_resetAwaiting (s : State) (x) : (s.setQueue x).resetAwaiting = s.resetAwaiting := rfl
@[simp] theorem State.setQueue_pending (s : State) (x) : (s.setQueue x).pending = s.pending := rfl
@[simp] theorem State.setQueue_self (s : State) : s.setQueue s.queue = s := rfl
@[simp] theorem State.setQueue_setQueue (s : State) (x y) : (s.setQueue x).setQueue y = s.setQueue y := rfl

@[simp] theorem State.setConvs_settings (s : State) (x) : (s.setConvs x).settings = s.settings := rfl
@[simp] theorem State.setConvs_table (s : State) (x) : (s.setConvs x).table = s.table := rfl
@[simp] theorem State.setConvs_target (s : State) (x) : (s.setConvs x).target = s.target := rfl
@[simp] theorem State.setConvs_solver (s : State) (x) : (s.setConvs x).solver = s.solver := rfl
@[simp] theorem State.setConvs_trackers (s : State) (x) : (s.setConvs x).trackers = s.trackers := rfl
@[simp] theorem State.setConvs_queue (s : State) (x) : (s.setConvs x).queue = s.queue := rfl
@[simp] theorem State.setConvs_convs (s : State) (x) : (s.setConvs x).convs = x := rfl
@[simp] theorem State.setConvs_line (s : State) (x) : (s.setConvs x).line = s.line := rfl
@[simp] theorem State.setConvs_classes (s : State) (x) : (s.setConvs x).classes = s.classes := rfl
@[simp] theorem State.setConvs_port (s : State) (x) : (s.setConvs x).port = s.port := rfl
@[simp] theorem State.setConvs_inputs (s : State) (x) : (s.setConvs x).inputs = s.inputs := rfl
@[simp] theorem State.setConvs_errors (s : State) (x) : (s.setConvs x).errors = s.errors := rfl
@[simp] theorem State.setConvs_processing (s : State) (x) : (s.setConvs x).processing = s.processing := rfl
@[simp] theorem State.setConvs_resetAwaiting (s : State) (x) : (s.setConvs x).resetAwaiting = s.resetAwaiting := rfl
@[simp] theorem State.setConvs_pending (s : State) (x) : (s.setConvs x).pending = s.pending := rfl
@[simp] theorem State.setConvs_self (s : State) : s.setConvs s.convs = s := rfl
@[simp] theorem State.setConvs_setConvs (s : State) (x y) : (s.setConvs x).setConvs y = s.setConvs y := rfl

@[simp] theorem State.setLine_settings (s : State) (x) : (s.setLine x).settings = s.settings := rfl
@[simp] theorem State.setLine_table (s : State) (x) : (s.setLine x).table = s.table := rfl
@[simp] theorem State.setLine_target (s : State) (x) : (s.setLine x).target = s.target := rfl
@[simp] theorem State.setLine_solver (s : State) (x) : (s.setLine x).solver = s.solver := rfl
@[simp] theorem State.setLine_trackers (s : State) (x) : (s.setLine x).trackers = s.trackers := rfl
@[simp] theorem State.setLine_queue (s : State) (x) : (s.setLine x).queue = s.queue := rfl
@[simp] theorem State.setLine_convs (s : State) (x) : (s.setLine x).convs = s.convs := rfl
@[simp] theorem State.setLine_line (s : State) (x) : (s.setLine x).line = x := rfl
@[simp] theorem State.setLine_classes (s : State) (x) : (s.setLine x).classes = s.classes := rfl
@[simp] theorem State.setLine_port (s : State) (x) : (s.setLine x).port = s.port := rfl
@[simp] theorem State.setLine_inputs (s : State) (x) : (s.setLine x).inputs = s.inputs := rfl
@[simp] theorem State.setLine_errors (s : State) (x) : (s.setLine x).errors = s.errors := rfl
@[simp] theorem State.setLine_processing (s : State) (x) : (s.setLine x).processing = s.processing := rfl
@[simp] theorem State.setLine_resetAwaiting (s : State) (x) : (s.setLine x).resetAwaiting = s.resetAwaiting := rfl
@[simp] theorem State.setLine_pending (s : State) (x) : (s.setLine x).pending = s.pending := rfl
@[simp] theorem State.setLine_self (s : State) : s.setLine s.line = s := rfl
@[simp] theorem State.setLine_setLine (s : State) (x y) : (s.setLine x).setLine y = s.setLine y := rfl

@[simp] theorem State.setClasses_settings (s : State) (x) : (s.setClasses x).settings = s.settings := rfl
@[simp] theorem State.setClasses_table (s : State) (x) : (s.setClasses x).table = s.table := rfl
@[simp] theorem State.setClasses_target (s : State) (x) : (s.setClasses x).target = s.target := rfl
@[simp] theorem State.setClasses_solver (s : State) (x) : (s.setClasses x).solver = s.solver := rfl
@[simp] theorem State.setClasses_trackers (s : State) (x) : (s.setClasses x).trackers = s.trackers := rfl
@[simp] theorem State.setClasses_queue (s : State) (x) : (s.setClasses x).queue = s.queue := rfl
@[simp] theorem State.setClasses_convs (s : State) (x) : (s.setClasses x).convs = s.convs := rfl
@[simp] theorem State.setClasses_line (s : State) (x) : (s.setClasses x).line = s.line := rfl
@[simp] theorem State.setClasses_classes (s : State) (x) : (s.setClasses x).classes = x := rfl
@[simp] theorem State.setClasses_port (s : State) (x) : (s.setClasses x).port = s.port := rfl
@[simp] theorem State.setClasses_inputs (s : State) (x) : (s.setClasses x).inputs = s.inputs := rfl
@[simp] theorem State.setClasses_errors (s : State) (x) : (s.setClasses x).errors = s.errors := rfl
@[simp] theorem State.setClasses_processing (s : State) (x) : (s.setClasses x).processing = s.processing := rfl
@[simp] theorem State.setClasses_resetAwaiting (s : State) (x) : (s.setClasses x).resetAwaiting = s.resetAwaiting := rfl
@[simp] theorem State.setClasses_pending (s : State) (x) : (s.setClasses x).pending = s.pending := rfl
@[simp] theorem State.setClasses_self (s : State) : s.setClasses s.classes = s := rfl
@[simp] theorem State.setClasses_setClasses (s : State) (x y) : (s.setClasses x).setClasses y = s.setClasses y := rfl

@[simp] theorem State.setPort_settings (s : State) (x) : (s.setPort x).settings = s.settings := rfl
@[simp] theorem State.setPort_table (s : State) (x) : (s.setPort x).table = s.table := rfl
@[simp] theorem State.setPort_target (s : State) (x) : (s.setPort x).target = s.target := rfl
@[simp] theorem State.setPort_solver (s : State) (x) : (s.setPort x).solver = s.solver := rfl
@[simp] theorem State.setPort_trackers (s : State) (x) : (s.setPort x).trackers = s.trackers := rfl
@[simp] theorem State.setPort_queue (s : State) (x) : (s.setPort x).queue = s.queue := rfl
@[simp] theorem State.setPort_convs (s : State) (x) : (s.setPort x).convs = s.convs := rfl
@[simp] theorem State.setPort_line (s : State) (x) : (s.setPort x).line = s.line := rfl
@[simp] theorem State.setPort_classes (s : State) (x) : (s.setPort x).classes = s.classes := rfl
@[simp] theorem State.setPort_port (s : State) (x) : (s.setPort x).port = x := rfl
@[simp] theorem State.setPort_inputs (s : State) (x) : (s.setPort x).inputs = s.inputs := rfl
@[simp] theorem State.setPort_errors (s : State) (x) : (s.setPort x).errors = s.errors := rfl
@[simp] theorem State.setPort_processing (s : State) (x) : (s.setPort x).processing = s.processing := rfl
@[simp] theorem State.setPort_resetAwaiting (s : State) (x) : (s.setPort x).resetAwaiting = s.resetAwaiting := rfl
@[simp] theorem State.setPort_pending (s : State) (x) : (s.setPort x).pending = s.pending := rfl
@[simp] theorem State.setPort_self (s : State) : s.setPort s.port = s := rfl
@[simp] theorem State.setPort_setPort (s : State) (x y) : (s.setPort x).setPort y = s.setPort y := rfl

@[simp] theorem State.setInputs_settings (s : State) (x) : (s.setInputs x).settings = s.settings := rfl
@[simp] theorem State.setInputs_table (s : State) (x) : (s.setInputs x).table = s.table := rfl
@[simp] theorem State.setInputs_target (s : State) (x) : (s.setInputs x).target = s.target := rfl
@[simp] theorem State.setInputs_solver (s : State) (x) : (s.setInputs x).solver = s.solver := rfl
@[simp] theorem State.setInputs_trackers (s : State) (x) : (s.setInputs x).trackers = s.trackers := rfl
@[simp] theorem State.setInputs_queue (s : State) (x) : (s.setInputs x).queue = s.queue := rfl
@[simp] theorem State.setInputs_convs (s : State) (x) : (s.setInputs x).convs = s.convs := rfl
@[simp] theorem State.setInputs_line (s : State) (x) : (s.setInputs x).line = s.line := rfl
@[simp] theorem State.setInputs_classes (s : State) (x) : (s.setInputs x).classes = s.classes := rfl
@[simp] theorem State.setInputs_port (s : State) (x) : (s.setInputs x).port = s.port := rfl
@[simp] theorem State.setInputs_inputs (s : State) (x) : (s.setInputs x).inputs = x := rfl
@[simp] theorem State.setInputs_errors (s : State) (x) : (s.setInputs x).errors = s.errors := rfl
@[simp] theorem State.setInputs_processing (s : State) (x) : (s.setInputs x).processing = s.processing := rfl
@[simp] theorem State.setInputs_resetAwaiting (s : State) (x) : (s.setInputs x).resetAwaiting = s.resetAwaiting := rfl
@[simp] theorem State.setInputs_pending (s : State) (x) : (s.setInputs x).pending = s.pending := rfl
@[simp] theorem State.setInputs_self (s : State) : s.setInputs s.inputs = s := rfl
@[simp] theorem State.setInputs_setInputs (s : State) (x y) : (s.setInputs x).setInputs y = s.setInputs y := rfl

@[simp] theorem State.setErrors_settings (s : State) (x) : (s.setErrors x).settings = s.settings := rfl
@[simp] theorem State.setErrors_table (s : State) (x) : (s.setErrors x).table = s.table := rfl
@[simp] theorem State.setErrors_target (s : State) (x) : (s.setErrors x).target = s.target := rfl
@[simp] theorem State.setErrors_solver (s : State) (x) : (s.setErrors x).solver = s.solver := rfl
@[simp] theorem State.setErrors_trackers (s : State) (x) : (s.setErrors x).trackers = s.trackers := rfl
@[simp] theorem State.setErrors_queue (s : State) (x) : (s.setErrors x).queue = s.queue := rfl
@[simp] theorem State.setErrors_convs (s : State) (x) : (s.setErrors x).convs = s.convs := rfl
@[simp] theorem State.setErrors_line (s : State) (x) : (s.setErrors x).line = s.line := rfl
@[simp] theorem State.setErrors_classes (s : State) (x) : (s.setErrors x).classes = s.classes := rfl
@[simp] theorem State.setErrors_port (s : State) (x) : (s.setErrors x).port = s.port := rfl
@[simp] theorem State.setErrors_inputs (s : State) (x) : (s.setErrors x).inputs = s.inputs := rfl
@[simp] theorem State.setErrors_errors (s : State) (x) : (s.setErrors x).errors = x := rfl
@[simp] theorem State.setErrors_processing (s : State) (x) : (s.setErrors x).processing = s.processing := rfl
@[simp] theorem State.setErrors_resetAwaiting (s : State) (x) : (s.setErrors x).resetAwaiting = s.resetAwaiting := rfl
@[simp] theorem State.setErrors_pending (s : State) (x) : (s.setErrors x).pending = s.pending := rfl
@[simp] theorem State.setErrors_self (s : State) : s.setErrors s.errors = s := rfl
@[simp] theorem State.setErrors_setErrors (s : State) (x y) : (s.setErrors x).setErrors y = s.setErrors y := rfl

@[simp] theorem State.setProcessing_settings (s : State) (x) : (s.setProcessing x).settings = s.settings := rfl
@[simp] theorem State.setProcessing_table (s : State) (x) : (s.setProcessing x).table = s.table := rfl
@[simp] theorem State.setProcessing_target (s : State) (x) : (s.setProcessing x).target = s.target := rfl
@[simp] theorem State.setProcessing_solver (s : State) (x) : (s.setProcessing x).solver = s.solver := rfl
@[simp] theorem State.setProcessing_trackers (s : State) (x) : (s.setProcessing x).trackers = s.trackers := rfl
@[simp] theorem State.setProcessing_queue (s : State) (x) : (s.setProcessing x).queue = s.queue := rfl
@[simp] theorem State.setProcessing_convs (s : State) (x) : (s.setProcessing x).convs = s.convs := rfl
@[simp] theorem State.setProcessing_line (s : State) (x) : (s.setProcessing x).line = s.line := rfl
@[simp] theorem State.setProcessing_classes (s : State) (x) : (s.setProcessing x).classes = s.classes := rfl
@[simp] theorem State.setProcessing_port (s : State) (x) : (s.setProcessing x).port = s.port := rfl
@[simp] theorem State.setProcessing_inputs (s : State) (x) : (s.setProcessing x).inputs = s.inputs := rfl
@[simp] theorem State.setProcessing_errors (s : State) (x) : (s.setProcessing x).errors = s.errors := rfl
@[simp] theorem State.setProcessing_processing (s : State) (x) : (s.setProcessing x).processing = x := rfl
@[simp] theorem State.setProcessing_resetAwaiting (s : State) (x) : (s.setProcessing x).resetAwaiting = s.resetAwaiting := rfl
@[simp] theorem State.setProcessing_pending (s : State) (x) : (s.setProcessing x).pending = s.pending := rfl
@[simp] theorem State.setProcessing_self (s : State) : s.setProcessing s.processing = s := rfl
@[simp] theorem State.setProcessing_setProcessing (s : State) (x y) : (s.setProcessing x).setProcessing y = s.setProcessing y := rfl

@[simp] theorem State.setResetAwaiting_settings (s : State) (x) : (s.setResetAwaiting x).settings = s.settings := rfl
@[simp] theorem State.setResetAwaiting_table (s : State) (x) : (s.setResetAwaiting x).table = s.table := rfl
@[simp] theorem State.setResetAwaiting_target (s : State) (x) : (s.setResetAwaiting x).target = s.target := rfl
@[simp] theorem State.setResetAwaiting_solver (s : State) (x) : (s.setResetAwaiting x).solver = s.solver := rfl
@[simp] theorem State.setResetAwaiting_trackers (s : State) (x) : (s.setResetAwaiting x).trackers = s.trackers := rfl
@[simp] theorem State.setResetAwaiting_queue (s : State) (x) : (s.setResetAwaiting x).queue = s.queue := rfl
@[simp] theorem State.setResetAwaiting_convs (s : State) (x) : (s.setResetAwaiting x).convs = s.convs := rfl
@[simp] theorem State.setResetAwaiting_line (s : State) (x) : (s.setResetAwaiting x).line = s.line := rfl
@[simp] theorem State.setResetAwaiting_classes (s : State) (x) : (s.setResetAwaiting x).classes = s.classes := rfl
@[simp] theorem State.setResetAwaiting_port (s : State) (x) : (s.setResetAwaiting x).port = s.port := rfl
@[simp] theorem State.setResetAwaiting_inputs (s : State) (x) : (s.setResetAwaiting x).inputs = s.inputs := rfl
@[simp] theorem State.setResetAwaiting_errors (s : State) (x) : (s.setResetAwaiting x).errors = s.errors := rfl
@[simp] theorem State.setResetAwaiting_processing (s : State) (x) : (s.setResetAwaiting x).processing = s.processing := rfl
@[simp] theorem State.setResetAwaiting_resetAwaiting (s : State) (x) : (s.setResetAwaiting x).resetAwaiting = x := rfl
@[simp] theorem State.setResetAwaiting_pending (s : State) (x) : (s.setResetAwaiting x).pending = s.pending := rfl
@[simp] theorem State.setResetAwaiting_self (s : State) : s.setResetAwaiting s.resetAwaiting = s := rfl
@[simp] theorem State.setResetAwaiting_setResetAwaiting (s : State) (x y) : (s.setResetAwaiting x).setResetAwaiting y = s.setResetAwaiting y := rfl

@[simp] theorem State.setPending_settings (s : State) (x) : (s.setPending x).settings = s.settings := rfl
@[simp] theorem State.setPending_table (s : State) (x) : (s.setPending x).table = s.table := rfl
@[simp] theorem State.setPending_target (s : State) (x) : (s.setPending x).target = s.target := rfl
@[simp] theorem State.setPending_solver (s : State) (x) : (s.setPending x).solver = s.solver := rfl
@[simp] theorem State.setPending_trackers (s : State) (x) : (s.setPending x).trackers = s.trackers := rfl
@[simp] theorem State.setPending_queue (s : State) (x) : (s.setPending x).queue = s.queue := rfl
@[simp] theorem State.setPending_convs (s : State) (x) : (s.setPending x).convs = s.convs := rfl
@[simp] theorem State.setPending_line (s : State) (x) : (s.setPending x).line = s.line := rfl
@[simp] theorem State.setPending_classes (s : State) (x) : (s.setPending x).classes = s.classes := rfl
@[simp] theorem State.setPending_port (s : State) (x) : (s.setPending x).port = s.port := rfl
@[simp] theorem State.setPending_inputs (s : State) (x) : (s.setPending x).inputs = s.inputs := rfl
@[simp] theorem State.setPending_errors (s : State) (x) : (s.setPending x).errors = s.errors := rfl
@[simp] theorem State.setPending_processing (s : State) (x) : (s.setPending x).processing = s.processing := rfl
@[simp] theorem State.setPending_resetAwaiting (s : State) (x) : (s.setPending x).resetAwaiting = s.resetAwaiting := rfl
@[simp] theorem State.setPending_pending (s : State) (x) : (s.setPending x).pending = x := rfl
@[simp] theorem State.setPending_self (s : State) : s.setPending s.pending = s := rfl
@[simp] theorem State.setPending_setPending (s : State) (x y) : (s.setPending x).setPending y = s.setPending y := rfl

@[simp] theorem State.setTracker_trackers (s : State) (u : UnitId) (t : Tracker) :
    (s.setTracker u t).trackers = upd s.trackers u t := rfl
@[simp] theorem State.setConv_convs (s : State) (c : ConvId) (r : ConvRecord) :
    (s.setConv c r).convs = upd s.convs c r := rfl
@[simp] theorem State.setTracker_tracker (s : State) (u : UnitId) (t : Tracker) :
    (s.setTracker u t).tracker u = t := upd_get_self _ _ _
theorem State.setTracker_tracker_ne (s : State) (t : Tracker) {u v : UnitId} (h : u ≠ v) :
    (s.setTracker u t).tracker v = s.tracker v := upd_get_ne _ _ h
@[simp] theorem State.setConv_conv (s : State) (c : ConvId) (r : ConvRecord) :
    (s.setConv c r).conv c = r := upd_get_self _ _ _
theorem State.setConv_conv_ne (s : State) (r : ConvRecord) {c d : ConvId} (h : c ≠ d) :
    (s.setConv c r).conv d = s.conv d := upd_get_ne _ _ h

@[simp] theorem State.setTracker_settings (s : State) (u : UnitId) (t : Tracker) : (s.setTracker u t).settings = s.settings := rfl
@[simp] theorem State.setTracker_table (s : State) (u : UnitId) (t : Tracker) : (s.setTracker u t).table = s.table := rfl
@[simp] theorem State.setTracker_target (s : State) (u : UnitId) (t : Tracker) : (s.setTracker u t).target = s.target := rfl
@[simp] theorem State.setTracker_solver (s : State) (u : UnitId) (t : Tracker) : (s.setTracker u t).solver = s.solver := rfl
@[simp] theorem State.setTracker_queue (s : State) (u : UnitId) (t : Tracker) : (s.setTracker u t).queue = s.queue := rfl
@[simp] theorem State.setTracker_convs (s : State) (u : UnitId) (t : Tracker) : (s.setTracker u t).convs = s.convs := rfl
@[simp] theorem State.setTracker_line (s : State) (u : UnitId) (t : Tracker) : (s.setTracker u t).line = s.line := rfl
@[simp] theorem State.setTracker_classes (s : State) (u : UnitId) (t : Tracker) : (s.setTracker u t).classes = s.classes := rfl
@[simp] theorem State.setTracker_port (s : State) (u : UnitId) (t : Tracker) : (s.setTracker u t).port = s.port := rfl
@[simp] theorem State.setTracker_inputs (s : State) (u : UnitId) (t : Tracker) : (s.setTracker u t).inputs = s.inputs := rfl
@[simp] theorem State.setTracker_errors (s : State) (u : UnitId) (t : Tracker) : (s.setTracker u t).errors = s.errors := rfl
@[simp] theorem State.setTracker_processing (s : State) (u : UnitId) (t : Tracker) : (s.setTracker u t).processing = s.processing := rfl
@[simp] theorem State.setTracker_resetAwaiting (s : State) (u : UnitId) (t : Tracker) : (s.setTracker u t).resetAwaiting = s.resetAwaiting := rfl
@[simp] theorem State.setTracker_pending (s : State) (u : UnitId) (t : Tracker) : (s.setTracker u t).pending = s.pending := rfl
@[simp] theorem State.setConv_settings (s : State) (u : ConvId) (t : ConvRecord) : (s.setConv u t).settings = s.settings := rfl
@[simp] theorem State.setConv_table (s : State) (u : ConvId) (t : ConvRecord) : (s.setConv u t).table = s.table := rfl
@[simp] theorem State.setConv_target (s : State) (u : ConvId) (t : ConvRecord) : (s.setConv u t).target = s.target := rfl
@[simp] theorem State.setConv_solver (s : State) (u : ConvId) (t : ConvRecord) : (s.setConv u t).solver = s.solver := rfl
@[simp] theorem State.setConv_trackers (s : State) (u : ConvId) (t : ConvRecord) : (s.setConv u t).trackers = s.trackers := rfl
@[simp] theorem State.setConv_queue (s : State) (u : ConvId) (t : ConvRecord) : (s.setConv u t).queue = s.queue := rfl
@[simp] theorem State.setConv_line (s : State) (u : ConvId) (t : ConvRecord) : (s.setConv u t).line = s.line := rfl
@[simp] theorem State.setConv_classes (s : State) (u : ConvId) (t : ConvRecord) : (s.setConv u t).classes = s.classes := rfl
@[simp] theorem State.setConv_port (s : State) (u : ConvId) (t : ConvRecord) : (s.setConv u t).port = s.port := rfl
@[simp] theorem State.setConv_inputs (s : State) (u : ConvId) (t : ConvRecord) : (s.setConv u t).inputs = s.inputs := rfl
@[simp] theorem State.setConv_errors (s : State) (u : ConvId) (t : ConvRecord) : (s.setConv u t).errors = s.errors := rfl
@[simp] theorem State.setConv_processing (s : State) (u : ConvId) (t : ConvRecord) : (s.setConv u t).processing = s.processing := rfl
@[simp] theorem State.setConv_resetAwaiting (s : State) (u : ConvId) (t : ConvRecord) : (s.setConv u t).resetAwaiting = s.resetAwaiting := rfl
@[simp] theorem State.setConv_pending (s : State) (u : ConvId) (t : ConvRecord) : (s.setConv u t).pending = s.pending := rfl

@[simp] theorem State.countTraffic_settings (s : State) (c : Traffic → Traffic) : (s.countTraffic c).settings = s.settings := rfl
@[simp] theorem State.countTraffic_table (s : State) (c : Traffic → Traffic) : (s.countTraffic c).table = s.table := rfl
@[simp] theorem State.countTraffic_target (s : State) (c : Traffic → Traffic) : (s.countTraffic c).target = s.target := rfl
@[simp] theorem State.countTraffic_solver (s : State) (c : Traffic → Traffic) : (s.countTraffic c).solver = s.solver := rfl
@[simp] theorem State.countTraffic_trackers (s : State) (c : Traffic → Traffic) : (s.countTraffic c).trackers = s.trackers := rfl
@[simp] theorem State.countTraffic_queue (s : State) (c : Traffic → Traffic) : (s.countTraffic c).queue = s.queue := rfl
@[simp] theorem State.countTraffic_convs (s : State) (c : Traffic → Traffic) : (s.countTraffic c).convs = s.convs := rfl
@[simp] theorem State.countTraffic_line (s : State) (c : Traffic → Traffic) : (s.countTraffic c).line = s.line := rfl
@[simp] theorem State.countTraffic_classes (s : State) (c : Traffic → Traffic) : (s.countTraffic c).classes = s.classes := rfl
@[simp] theorem State.countTraffic_inputs (s : State) (c : Traffic → Traffic) : (s.countTraffic c).inputs = s.inputs := rfl
@[simp] theorem State.countTraffic_errors (s : State) (c : Traffic → Traffic) : (s.countTraffic c).errors = s.errors := rfl
@[simp] theorem State.countTraffic_processing (s : State) (c : Traffic → Traffic) : (s.countTraffic c).processing = s.processing := rfl
@[simp] theorem State.countTraffic_resetAwaiting (s : State) (c : Traffic → Traffic) : (s.countTraffic c).resetAwaiting = s.resetAwaiting := rfl
@[simp] theorem State.countTraffic_pending (s : State) (c : Traffic → Traffic) : (s.countTraffic c).pending = s.pending := rfl

end Sys2Proof.Machine
end

