-- ==== Sys2Proof/Laws/Frames.lean ====
section
/-! SUPPORT. The frames of the shared operations: for each, the list of blocks it may change. -/
namespace Sys2Proof.Machine

theorem Unchanged.refl (l : List Block) (s : State) : Unchanged l s s := by
  intro b _
  cases b <;> rfl

theorem Unchanged.mono {l m : List Block} {s t : State} (h : Unchanged l s t) (k : l ⊆ m) :
    Unchanged m s t := fun b hb => h b (fun hl => hb (k hl))

theorem Block.same_trans {b : Block} {s t u : State} (h : b.same s t) (k : b.same t u) :
    b.same s u := by
  cases b <;> exact Eq.trans k h

theorem Unchanged.trans {l : List Block} {s t u : State} (h : Unchanged l s t)
    (k : Unchanged l t u) : Unchanged l s u := fun b hb => Block.same_trans (h b hb) (k b hb)

/-- Two operations in turn change the blocks of both. -/
theorem Unchanged.seq {l m : List Block} {s t u : State} (h : Unchanged l s t)
    (k : Unchanged m t u) : Unchanged (l ++ m) s u :=
  (h.mono (List.subset_append_left l m)).trans (k.mono (List.subset_append_right l m))

/-! ## Updates of one block -/

theorem frame_setSettings (s : State) (x) : Unchanged [.settings] s (s.setSettings x) := by
  intro b hb
  cases b <;> first | rfl | exact absurd (by decide) hb

theorem frame_setTable (s : State) (x) : Unchanged [.table] s (s.setTable x) := by
  intro b hb
  cases b <;> first | rfl | exact absurd (by decide) hb

theorem frame_setTarget (s : State) (x) : Unchanged [.target] s (s.setTarget x) := by
  intro b hb
  cases b <;> first | rfl | exact absurd (by decide) hb

theorem frame_setSolver (s : State) (x) : Unchanged [.solver] s (s.setSolver x) := by
  intro b hb
  cases b <;> first | rfl | exact absurd (by decide) hb

theorem frame_setTrackers (s : State) (x) : Unchanged [.trackers] s (s.setTrackers x) := by
  intro b hb
  cases b <;> first | rfl | exact absurd (by decide) hb

theorem frame_setQueue (s : State) (x) : Unchanged [.queue] s (s.setQueue x) := by
  intro b hb
  cases b <;> first | rfl | exact absurd (by decide) hb

theorem frame_setConvs (s : State) (x) : Unchanged [.convs] s (s.setConvs x) := by
  intro b hb
  cases b <;> first | rfl | exact absurd (by decide) hb

theorem frame_setLine (s : State) (x) : Unchanged [.line] s (s.setLine x) := by
  intro b hb
  cases b <;> first | rfl | exact absurd (by decide) hb

theorem frame_setClasses (s : State) (x) : Unchanged [.classes] s (s.setClasses x) := by
  intro b hb
  cases b <;> first | rfl | exact absurd (by decide) hb

theorem frame_setPort (s : State) (x) : Unchanged [.port] s (s.setPort x) := by
  intro b hb
  cases b <;> first | rfl | exact absurd (by decide) hb

theorem frame_setInputs (s : State) (x) : Unchanged [.inputs] s (s.setInputs x) := by
  intro b hb
  cases b <;> first | rfl | exact absurd (by decide) hb

theorem frame_setErrors (s : State) (x) : Unchanged [.errors] s (s.setErrors x) := by
  intro b hb
  cases b <;> first | rfl | exact absurd (by decide) hb

theorem frame_setProcessing (s : State) (x) : Unchanged [.processing] s (s.setProcessing x) := by
  intro b hb
  cases b <;> first | rfl | exact absurd (by decide) hb

theorem frame_setResetAwaiting (s : State) (x) : Unchanged [.resetAwaiting] s (s.setResetAwaiting x) := by
  intro b hb
  cases b <;> first | rfl | exact absurd (by decide) hb

theorem frame_setPending (s : State) (x) : Unchanged [.pending] s (s.setPending x) := by
  intro b hb
  cases b <;> first | rfl | exact absurd (by decide) hb

theorem frame_setTracker (s : State) (u x) : Unchanged [.trackers] s (s.setTracker u x) :=
  frame_setTrackers s _

theorem frame_setConv (s : State) (c x) : Unchanged [.convs] s (s.setConv c x) := frame_setConvs s _

theorem frame_countTraffic (s : State) (c) : Unchanged [.port] s (s.countTraffic c) := frame_setPort s _

theorem frame_foldl {α : Type} {l : List Block} (f : State → α → State)
    (hf : ∀ s x, Unchanged l s (f s x)) (xs : List α) : ∀ s : State, Unchanged l s (xs.foldl f s) := by
  induction xs with
  | nil => exact Unchanged.refl l
  | cons x rest ih => exact fun s => (hf s x).trans (ih _)

/-! ## The unit line -/

theorem frame_choosePoll (s : State) : Unchanged [.line] s s.choosePoll := by
  unfold State.choosePoll
  split
  · exact .refl _ s
  · split
    · exact frame_setLine s _
    · split
      · exact .refl _ s
      · exact frame_setLine s _

theorem frame_lineChoose (s : State) : Unchanged [.line] s s.lineChoose := by
  unfold State.lineChoose
  split
  · exact .refl _ s
  · split
    · exact frame_setLine s _
    · split
      · exact frame_setLine s _
      · exact frame_choosePoll s

theorem frame_lineFree (s : State) (l) : Unchanged [.line] s (s.setLine l).lineChoose :=
  (frame_setLine s l).trans (frame_lineChoose _)

theorem frame_placeOrder (s : State) (o) : Unchanged [.line] s (s.placeOrder o) := frame_lineFree s _

theorem frame_queueStop (s : State) (u) : Unchanged [.line] s (s.queueStop u) := frame_placeOrder s _

theorem frame_resumeScan (s : State) : Unchanged [.line] s s.resumeScan := by
  unfold State.resumeScan
  split
  · exact frame_lineFree s _
  · exact .refl _ s

theorem frame_setMiss (s : State) (a n) : Unchanged [.line] s (s.setMiss a n) := by
  unfold State.setMiss
  split
  · exact frame_setLine s _
  · exact .refl _ s

/-! ## The monitor and the dispatch port -/

theorem frame_note (s : State) (d) : Unchanged [.errors] s (s.note d) := frame_setErrors s _

theorem frame_txChoose (s : State) : Unchanged [.port, .line] s s.txChoose := by
  unfold State.txChoose
  split
  · exact .refl _ s
  · split
    · exact (frame_setPort s _).mono (by simp)
    · split
      · exact (frame_setPort s _).seq (frame_resumeScan _)
      · exact .refl _ s

theorem frame_txFree (s : State) (p) : Unchanged [.port, .line] s (s.setPort p).txChoose :=
  ((frame_setPort s p).mono (by simp)).trans (frame_txChoose _)

theorem frame_joinOwn (s : State) (x) : Unchanged [.port, .line] s (s.joinOwn x) := frame_txFree s _

/-- The blocks a detection may change. -/
abbrev detectBlocks : List Block := [.errors, .port, .line]

theorem frame_detectChain (n : Nat) : ∀ (s : State) (d), Unchanged detectBlocks s (s.detectChain n d) := by
  have note : ∀ (s : State) (d), Unchanged detectBlocks s (s.note d) :=
    fun s d => (frame_note s d).mono (by simp)
  induction n with
  | zero => exact note
  | succ n ih =>
    intro s d
    unfold State.detectChain
    simp only
    split
    · split
      · exact (note s d).trans (ih _ _)
      · exact (note s d).trans ((frame_joinOwn _ _).mono (by simp))
    · exact note s d

theorem frame_detect (s : State) (d) : Unchanged detectBlocks s (s.detect d) := frame_detectChain 3 s d

theorem frame_detectAt (s : State) (k n) : Unchanged detectBlocks s (s.detectAt k n) := frame_detect s _

theorem frame_offerOwn (s : State) (f) : Unchanged detectBlocks s (s.offerOwn f) := by
  unfold State.offerOwn
  split
  · exact frame_detect s _
  · exact (frame_joinOwn s _).mono (by simp)

theorem frame_offerResetReply (s : State) (f) : Unchanged detectBlocks s (s.offerResetReply f) := by
  unfold State.offerResetReply
  split
  · exact ((frame_txFree s _).mono (by simp)).trans (frame_detect _ _)
  · exact (frame_txFree s _).mono (by simp)

theorem frame_joinForwardUp (s : State) (w f) : Unchanged detectBlocks s (s.joinForwardUp w f) :=
  (frame_txFree s _).mono (by simp)

theorem frame_offerForwardUp (s : State) (f) : Unchanged detectBlocks s (s.offerForwardUp f) := by
  unfold State.offerForwardUp
  split
  · exact frame_joinForwardUp s _ f
  · split
    · exact frame_detectAt s _ _
    · exact (frame_joinForwardUp s _ f).trans (frame_detectAt _ _ _)

theorem frame_offerForwardDown (s : State) (f) : Unchanged detectBlocks s (s.offerForwardDown f) := by
  unfold State.offerForwardDown
  split
  · refine Unchanged.trans ?_ ((frame_lineChoose _).mono (by simp))
    exact ((frame_setLine s _).seq (frame_countTraffic _ _)).mono (by simp)
  · exact frame_detectAt s _ _

/-! ## The solver -/

theorem frame_startFull (s : State) : Unchanged [.solver] s s.startFull := frame_setSolver s _

theorem frame_startLoad (s : State) : Unchanged [.solver] s s.startLoad := frame_setSolver s _

theorem frame_discardSolve (s : State) : Unchanged [.solver] s s.discardSolve := by
  unfold State.discardSolve
  split
  · exact .refl _ s
  · exact frame_setSolver s _
  · exact frame_setSolver s _

theorem frame_takeFullTrigger (s : State) : Unchanged [.solver] s s.takeFullTrigger := by
  unfold State.takeFullTrigger
  split
  · exact frame_setSolver s _
  · split
    · exact frame_startFull s
    · split
      · exact frame_setSolver s _
      · exact (frame_discardSolve s).trans (frame_startFull _)

theorem frame_fullTrigger (s : State) (src) : Unchanged [.solver] s (s.fullTrigger src) := by
  unfold State.fullTrigger
  split
  · exact frame_takeFullTrigger s
  · exact .refl _ s

theorem frame_loadTrigger (s : State) : Unchanged [.solver] s s.loadTrigger := by
  unfold State.loadTrigger
  split
  · split
    · exact frame_setSolver s _
    · split
      · exact frame_startLoad s
      · exact .refl _ s
      · exact frame_setSolver s _
  · exact .refl _ s

theorem frame_fullTriggers (src) (n : Nat) :
    ∀ s : State, Unchanged [.solver] s (State.fullTriggers src n s) := by
  induction n with
  | zero => exact Unchanged.refl _
  | succ n ih => exact fun s => (frame_fullTrigger s src).trans (ih _)

theorem frame_actOnLatches (s : State) : Unchanged [.solver] s s.actOnLatches := by
  unfold State.actOnLatches
  split
  · refine Unchanged.trans ?_ (frame_startFull _)
    exact frame_setSolver s _
  · split
    · exact frame_startLoad s
    · exact frame_setSolver s _

theorem frame_chooseNextSolve (s : State) (a) : Unchanged [.solver] s (s.chooseNextSolve a) := by
  unfold State.chooseNextSolve
  split
  · exact frame_actOnLatches s
  · split
    · exact frame_startLoad s
    · exact frame_setSolver s _

theorem frame_handHead (s : State) : Unchanged [.solver] s s.handHead := by
  unfold State.handHead
  split
  · exact frame_fullTrigger s _
  · exact .refl _ s

/-! ## Trackers, start queue, converters -/

theorem frame_moveTracker (s : State) (u st g c) :
    Unchanged [.trackers, .queue] s (s.moveTracker u st g c) :=
  (frame_setTracker s u _).seq (frame_setQueue _ _)

theorem frame_changeTracker (s : State) (u st g c) :
    Unchanged [.trackers, .queue, .solver] s (s.changeTracker u st g c) := by
  have h := frame_moveTracker s u st g c
  unfold State.changeTracker
  simp only
  split <;> split
  · exact h.seq ((frame_fullTrigger _ _).trans (frame_fullTrigger _ _))
  · exact h.seq (frame_fullTrigger _ _)
  · exact h.seq (frame_fullTrigger _ _)
  · exact h.mono (by simp)

theorem frame_changeConv (s : State) (c st cause) : Unchanged [.convs] s (s.changeConv c st cause) :=
  frame_setConv s c _

theorem frame_detachConv (s : State) (c) : Unchanged [.line, .convs] s (s.detachConv c) := by
  unfold State.detachConv
  split
  · exact (frame_placeOrder s _).seq (frame_changeConv _ _ _ _)
  · exact .refl _ s

theorem frame_detachGranted (s : State) (t) : Unchanged [.line, .convs] s (s.detachGranted t) := by
  unfold State.detachGranted
  split
  · split
    · exact frame_detachConv s _
    · exact .refl _ s
  · exact .refl _ s

/-- The blocks that stopping a machine may change. -/
abbrev stopBlocks : List Block := [.line, .trackers, .queue, .solver]

theorem frame_stopUnit (s : State) (u) : Unchanged stopBlocks s (s.stopUnit u) :=
  (frame_queueStop s u).seq (frame_changeTracker _ _ _ _ _)

/-- The blocks that the plant's events may change: a report, a trip, a deadline, a lost station. -/
abbrev plantBlocks : List Block := [.trackers, .queue, .solver, .convs, .line, .errors, .port]

theorem frame_faultUnit (s : State) (u cause kind) :
    Unchanged plantBlocks s (s.faultUnit u cause kind) :=
  ((((frame_changeTracker s u _ _ _).mono (by simp)).trans
    ((frame_queueStop _ u).mono (by simp))).trans
    ((frame_detachGranted _ _).mono (by simp))).trans ((frame_detectAt _ _ _).mono (by simp))

theorem frame_tripUnit (s : State) (u) : Unchanged plantBlocks s (s.tripUnit u) := by
  unfold State.tripUnit
  split
  · exact (frame_detectAt s _ _).mono (by simp)
  · exact frame_faultUnit s u _ _

theorem frame_mismatchUnit (s : State) (u r) : Unchanged plantBlocks s (s.mismatchUnit u r) :=
  (((frame_detectAt s _ _).mono (by simp)).trans ((frame_detachGranted _ _).mono (by simp))).trans
    ((frame_changeTracker _ _ _ _ _).mono (by simp))

theorem frame_applyReport (s : State) (u r) : Unchanged plantBlocks s (s.applyReport u r) := by
  unfold State.applyReport
  simp only
  split
  · exact .refl _ s
  · split
    · split <;> exact frame_faultUnit s u _ _
    · split
      · exact .refl _ s
      · split
        · exact frame_faultUnit s u _ _
        · exact (frame_changeTracker s u _ _ _).mono (by simp)
      · exact ((frame_detachGranted s _).mono (by simp)).trans
          ((frame_changeTracker _ _ _ _ _).mono (by simp))
      · split
        · exact frame_faultUnit s u _ _
        · exact frame_mismatchUnit s u r

theorem frame_takeReport (s : State) (u r) : Unchanged plantBlocks s (s.takeReport u r) :=
  ((frame_setTracker s u _).mono (by simp)).trans (frame_applyReport _ u r)

theorem frame_endPin (s : State) (u) : Unchanged [.trackers, .solver] s (s.endPin u) :=
  (frame_setTracker s u _).seq (frame_fullTrigger _ _)

theorem frame_loseUnit (s : State) (u) : Unchanged plantBlocks s (s.loseUnit u) := by
  unfold State.loseUnit
  simp only
  split
  · exact .refl _ s
  · exact (((frame_detachGranted s _).mono (by simp)).trans
      ((frame_changeTracker _ _ _ _ _).mono (by simp))).trans ((frame_detectAt _ _ _).mono (by simp))

theorem frame_repin (s : State) (u old new) : Unchanged [.trackers, .solver] s (s.repin u old new) := by
  unfold State.repin
  simp only
  split
  · split
    · split
      · exact ((frame_setTracker s u _).mono (by simp)).trans (frame_endPin _ u)
      · exact (frame_setTracker s u _).mono (by simp)
    · exact .refl _ s
  · exact .refl _ s

theorem frame_withdrawEntry (s : State) (u) : Unchanged [.queue] s (s.withdrawEntry u) :=
  frame_setQueue s _

theorem frame_grant (s : State) (u c) : Unchanged [.line, .convs] s (s.grant u c) :=
  (frame_placeOrder s _).seq (frame_changeConv _ _ _ _)

/-- The blocks the admission walk may change. -/
abbrev walkBlocks : List Block := [.trackers, .queue, .solver, .convs, .line]

theorem frame_startEntry (s : State) (e) : Unchanged walkBlocks s (s.startEntry e) := by
  have h : Unchanged walkBlocks s (s.withdrawEntry e.unit) :=
    (frame_withdrawEntry s e.unit).mono (by simp)
  unfold State.startEntry
  simp only
  split
  · exact (h.trans ((frame_placeOrder _ _).mono (by simp))).trans
      ((frame_moveTracker _ _ _ _ _).mono (by simp))
  · exact (h.trans ((frame_placeOrder _ _).mono (by simp))).trans
      ((frame_moveTracker _ _ _ _ _).mono (by simp))
  · split
    · exact (h.trans ((frame_grant _ _ _).mono (by simp))).trans
        ((frame_moveTracker _ _ _ _ _).mono (by simp))
    · exact .refl _ s

theorem frame_walkLoop (n : Nat) : ∀ s : State, Unchanged walkBlocks s (walkLoop n s).1 := by
  induction n with
  | zero => exact Unchanged.refl _
  | succ n ih =>
    intro s
    have hq : Unchanged walkBlocks s (s.setQueue (s.walkScan s.queue).1) :=
      (frame_setQueue s _).mono (by simp)
    unfold walkLoop
    simp only
    split
    · exact hq
    · exact (hq.trans (frame_startEntry _ _)).trans (ih _)

theorem frame_admissionWalk (s : State) : Unchanged walkBlocks s s.admissionWalk.1 := by
  unfold State.admissionWalk
  split
  · exact frame_walkLoop _ s
  · exact .refl _ s

theorem frame_runWalk (s : State) : Unchanged walkBlocks s s.runWalk :=
  (frame_admissionWalk s).trans ((frame_fullTriggers _ _ _).mono (by simp))

theorem frame_walkAfter (before s : State) : Unchanged walkBlocks s (State.walkAfter before s) := by
  unfold State.walkAfter
  split
  · exact frame_runWalk s
  · exact .refl _ s

theorem frame_faultConv (s : State) (c cause) : Unchanged plantBlocks s (s.faultConv c cause) := by
  have h : Unchanged plantBlocks s
      ((s.changeConv c .faulted cause).detectAt .converterFault (convStation c)) :=
    ((frame_changeConv s c _ _).mono (by simp)).trans ((frame_detectAt _ _ _).mono (by simp))
  unfold State.faultConv
  simp only
  split
  · exact h.trans ((frame_stopUnit _ _).mono (by simp))
  · exact h

theorem frame_completeAttach (s : State) (c u) : Unchanged plantBlocks s (s.completeAttach c u) := by
  unfold State.completeAttach
  split
  · exact ((frame_changeConv s c _ _).mono (by simp)).trans ((frame_placeOrder _ _).mono (by simp))
  · exact ((frame_detachConv s c).mono (by simp)).trans ((frame_stopUnit _ _).mono (by simp))

theorem frame_mismatchConv (s : State) (c v) : Unchanged plantBlocks s (s.mismatchConv c v) :=
  ((frame_changeConv s c _ _).mono (by simp)).trans ((frame_detectAt _ _ _).mono (by simp))

theorem frame_convIdle (s : State) (c) : Unchanged plantBlocks s (s.convIdle c) := by
  have h : ∀ st, Unchanged plantBlocks s (s.changeConv c st) :=
    fun st => (frame_changeConv s c st _).mono (by simp)
  unfold State.convIdle
  split
  · exact h _
  · exact h _
  · exact h _
  · exact h _
  · exact frame_faultConv s c _
  all_goals exact .refl _ s

theorem frame_convAttached (s : State) (c v) : Unchanged plantBlocks s (s.convAttached c v) := by
  have h : ∀ st, Unchanged plantBlocks s (s.changeConv c st) :=
    fun st => (frame_changeConv s c st _).mono (by simp)
  unfold State.convAttached
  split
  · exact h _
  · exact h _
  · exact frame_mismatchConv s c v
  · exact (frame_setConv s c _).mono (by simp)
  · split
    · exact frame_completeAttach s c _
    · exact frame_faultConv s c _
  · split
    · exact .refl _ s
    · exact frame_faultConv s c _
  · split
    · exact .refl _ s
    · exact frame_mismatchConv s c v
  all_goals exact .refl _ s

theorem frame_convFault (s : State) (c) : Unchanged plantBlocks s (s.convFault c) := by
  unfold State.convFault
  split
  · exact .refl _ s
  · exact .refl _ s
  · exact frame_faultConv s c _

theorem frame_takeConvReport (s : State) (c r) : Unchanged plantBlocks s (s.takeConvReport c r) := by
  have h : Unchanged plantBlocks s (s.recordConvReport c r) := (frame_setConv s c _).mono (by simp)
  unfold State.takeConvReport
  simp only
  split
  · exact h.trans (frame_convIdle _ c)
  · exact h.trans (frame_convFault _ c)
  · split
    · exact h.trans (frame_convAttached _ c _)
    · exact h
  · split
    · exact h.trans (frame_convAttached _ c _)
    · exact h

theorem frame_expireConv (s : State) (c) : Unchanged plantBlocks s (s.expireConv c) := by
  unfold State.expireConv
  split
  · exact frame_faultConv s c _
  · exact frame_faultConv s c _
  · exact .refl _ s

theorem frame_loseConv (s : State) (c) : Unchanged plantBlocks s (s.loseConv c) := by
  unfold State.loseConv
  split
  · exact .refl _ s
  · exact .refl _ s
  · simp only
    split
    · exact (((frame_stopUnit s _).mono (by simp)).trans
        ((frame_changeConv _ _ _ _).mono (by simp))).trans ((frame_detectAt _ _ _).mono (by simp))
    · exact ((frame_changeConv s _ _ _).mono (by simp)).trans ((frame_detectAt _ _ _).mono (by simp))

theorem frame_loseStation (s : State) (a) : Unchanged plantBlocks s (s.loseStation a) := by
  unfold State.loseStation
  split
  · exact frame_loseUnit s _
  · refine frame_foldl _ (fun s c => ?_) _ s
    split
    · exact frame_loseConv s c
    · exact .refl _ s

end Sys2Proof.Machine
end

