-- ==== Sys2Proof/Laws/Keeps.lean ====
section
/-! SUPPORT. What every operation inside a command keeps: the invariants of Sys2Proof/Safety.lean, and the
blocks that only a few commands touch. One lemma for each shared operation; a command's own proof
composes them. -/
namespace Sys2Proof.Machine

/-- From `s` to `t` every invariant of Safety is kept, and the effective authority, SETTINGS, the reset
processing and the queue of commands are the same. -/
structure Keeps (s t : State) : Prop where
  queues : s.QueuesBounded → t.QueuesBounded
  counters : s.CountersBounded → t.CountersBounded
  limits : s.TargetsInLimits → t.TargetsInLimits
  links : s.LinksBusy → t.LinksBusy
  plans : s.PlansOnlyInRemote → t.PlansOnlyInRemote
  remote : t.isRemote = s.isRemote
  settings : t.settings = s.settings
  processing : t.processing = s.processing
  pending : t.pending = s.pending

theorem Keeps.refl (s : State) : Keeps s s := ⟨id, id, id, id, id, rfl, rfl, rfl, rfl⟩

theorem Keeps.trans {s t u : State} (h : Keeps s t) (k : Keeps t u) : Keeps s u :=
  ⟨k.queues ∘ h.queues, k.counters ∘ h.counters, k.limits ∘ h.limits, k.links ∘ h.links,
   k.plans ∘ h.plans, k.remote.trans h.remote, k.settings.trans h.settings,
   k.processing.trans h.processing, k.pending.trans h.pending⟩

/-! ## Updates of blocks no invariant speaks of -/

theorem keeps_setTrackers (s : State) (x) : Keeps s (s.setTrackers x) :=
  ⟨fun h => ⟨h.1, h.2, h.3, h.4, h.5, h.6⟩, fun h => ⟨h.1, h.2, h.3, h.4, h.5, h.6, h.7⟩,
   fun h => ⟨h.1, h.2, h.3, h.4⟩, fun h => ⟨h.1, h.2⟩, fun h => ⟨h.1, h.2, h.3, h.4, h.5⟩,
   rfl, rfl, rfl, rfl⟩

theorem keeps_setTracker (s : State) (u) (x) : Keeps s (s.setTracker u x) := keeps_setTrackers s _

theorem keeps_setConvs (s : State) (x) : Keeps s (s.setConvs x) :=
  ⟨fun h => ⟨h.1, h.2, h.3, h.4, h.5, h.6⟩, fun h => ⟨h.1, h.2, h.3, h.4, h.5, h.6, h.7⟩,
   fun h => ⟨h.1, h.2, h.3, h.4⟩, fun h => ⟨h.1, h.2⟩, fun h => ⟨h.1, h.2, h.3, h.4, h.5⟩,
   rfl, rfl, rfl, rfl⟩

theorem keeps_setConv (s : State) (c) (x) : Keeps s (s.setConv c x) := keeps_setConvs s _

theorem keeps_setTable (s : State) (x) : Keeps s (s.setTable x) :=
  ⟨fun h => ⟨h.1, h.2, h.3, h.4, h.5, h.6⟩, fun h => ⟨h.1, h.2, h.3, h.4, h.5, h.6, h.7⟩,
   fun h => ⟨h.1, h.2, h.3, h.4⟩, fun h => ⟨h.1, h.2⟩, fun h => ⟨h.1, h.2, h.3, h.4, h.5⟩,
   rfl, rfl, rfl, rfl⟩

theorem keeps_setClasses (s : State) (x) : Keeps s (s.setClasses x) :=
  ⟨fun h => ⟨h.1, h.2, h.3, h.4, h.5, h.6⟩, fun h => ⟨h.1, h.2, h.3, h.4, h.5, h.6, h.7⟩,
   fun h => ⟨h.1, h.2, h.3, h.4⟩, fun h => ⟨h.1, h.2⟩, fun h => ⟨h.1, h.2, h.3, h.4, h.5⟩,
   rfl, rfl, rfl, rfl⟩

theorem keeps_setResetAwaiting (s : State) (x) : Keeps s (s.setResetAwaiting x) :=
  ⟨fun h => ⟨h.1, h.2, h.3, h.4, h.5, h.6⟩, fun h => ⟨h.1, h.2, h.3, h.4, h.5, h.6, h.7⟩,
   fun h => ⟨h.1, h.2, h.3, h.4⟩, fun h => ⟨h.1, h.2⟩, fun h => ⟨h.1, h.2, h.3, h.4, h.5⟩,
   rfl, rfl, rfl, rfl⟩

/-- The inputs change and the local/remote line keeps its level. -/
theorem keeps_setInputs (s : State) (x : Inputs) (hl : x.localLevel = s.inputs.localLevel) :
    Keeps s (s.setInputs x) := by
  have hr : (s.setInputs x).isRemote = s.isRemote := by
    simp [State.isRemote, State.authority, hl]
  exact ⟨fun h => ⟨h.1, h.2, h.3, h.4, h.5, h.6⟩, fun h => ⟨h.1, h.2, h.3, h.4, h.5, h.6, h.7⟩,
   fun h => ⟨h.1, h.2, h.3, h.4⟩, fun h => ⟨h.1, h.2⟩,
   fun h => ⟨fun p r => h.1 p (hr ▸ r), fun p r => h.2 p (hr ▸ r), fun p r => h.3 p (hr ▸ r),
     fun p r => h.4 p (hr ▸ r), fun p r => hr.symm ▸ h.5 p r⟩,
   hr, rfl, rfl, rfl⟩

/-- A line that keeps its queues and does not become free. -/
theorem keeps_setLine (s : State) (l : UnitLine) (ho : l.orders = s.line.orders)
    (hf : l.forwardDown = s.line.forwardDown) (ha : l.activity = .idle → s.line.activity = .idle) :
    Keeps s (s.setLine l) :=
  ⟨fun h => ⟨h.1, h.2, by simpa [hf] using h.3, by simpa [ho] using h.4, h.5, h.6⟩,
   fun h => ⟨h.1, h.2, h.3, h.4, h.5, h.6, h.7⟩, fun h => ⟨h.1, h.2, h.3, h.4⟩,
   fun h => ⟨h.1, fun i => by simpa [ho, hf] using h.2 (ha i)⟩,
   fun h => ⟨h.1, h.2, h.3, h.4, h.5⟩, rfl, rfl, rfl, rfl⟩

/-! ## The choice of the free line (R133) -/

theorem choosePoll_queues (s : State) :
    s.choosePoll.line.orders = s.line.orders ∧ s.choosePoll.line.forwardDown = s.line.forwardDown := by
  unfold State.choosePoll
  split
  · exact ⟨rfl, rfl⟩
  · split
    · exact ⟨rfl, rfl⟩
    · split <;> exact ⟨rfl, rfl⟩

/-- The line's choice touches the line alone. -/
theorem lineChoose_only (s : State) : ∃ l, s.lineChoose = s.setLine l := by
  unfold State.lineChoose
  split
  · exact ⟨s.line, rfl⟩
  · split
    · exact ⟨_, rfl⟩
    · split
      · exact ⟨_, rfl⟩
      · unfold State.choosePoll
        split
        · exact ⟨s.line, rfl⟩
        · split
          · exact ⟨_, rfl⟩
          · split
            · exact ⟨s.line, rfl⟩
            · exact ⟨_, rfl⟩

/-- After its choice a free line has nothing queued (R133). -/
theorem lineChoose_links (s : State) (h : s.lineChoose.line.activity = .idle) :
    s.lineChoose.line.orders = [] ∧ s.lineChoose.line.forwardDown = [] := by
  unfold State.lineChoose at h ⊢
  split at h
  · contradiction
  · split at h
    · simp at h
    · split at h
      · simp at h
      · rename_i ho _ hf
        have := choosePoll_queues s
        simp_all

/-- The choice takes orders and forwarded frames from the heads of their queues (R133). -/
theorem lineChoose_suffix (s : State) :
    s.lineChoose.line.orders <:+ s.line.orders ∧
      s.lineChoose.line.forwardDown <:+ s.line.forwardDown := by
  unfold State.lineChoose
  split
  · exact ⟨List.suffix_rfl, List.suffix_rfl⟩
  · split
    · rename_i h
      exact ⟨by simp [h], List.suffix_rfl⟩
    · split
      · rename_i ho _ f rest hf
        exact ⟨List.suffix_rfl, by simp [hf]⟩
      · have := choosePoll_queues s
        exact ⟨by simp [this.1], by simp [this.2]⟩

/-- A line that changes and then chooses: its queues must keep their bounds. -/
theorem keeps_lineChoose_of (s : State) (l : UnitLine)
    (ho : (s.line.orders.map (fun q => q.order.station)).Nodup →
      (l.orders.map (fun q => q.order.station)).Nodup)
    (hf : s.line.forwardDown.length ≤ Config.forwardQueueSize →
      l.forwardDown.length ≤ Config.forwardQueueSize) :
    Keeps s (s.setLine l).lineChoose := by
  obtain ⟨l', e⟩ := lineChoose_only (s.setLine l)
  have hs := lineChoose_suffix (s.setLine l)
  have hk := lineChoose_links (s.setLine l)
  rw [e] at hs hk ⊢
  refine ⟨fun h => ⟨h.1, h.2, ?_, ?_, h.5, h.6⟩,
   fun h => ⟨h.1, h.2, h.3, h.4, h.5, h.6, h.7⟩, fun h => ⟨h.1, h.2, h.3, h.4⟩,
   fun h => ⟨h.1, fun i => by simpa using hk (by simpa using i)⟩,
   fun h => ⟨h.1, h.2, h.3, h.4, h.5⟩, rfl, rfl, rfl, rfl⟩
  · exact le_trans hs.2.length_le (hf h.3)
  · exact (ho h.4).sublist (hs.1.sublist.map _)

theorem keeps_lineChoose (s : State) : Keeps s s.lineChoose :=
  keeps_lineChoose_of s s.line id id

/-- A line that keeps its queues and then chooses. -/
theorem keeps_lineFree (s : State) (l : UnitLine) (ho : l.orders = s.line.orders)
    (hf : l.forwardDown = s.line.forwardDown) : Keeps s (s.setLine l).lineChoose :=
  keeps_lineChoose_of s l (by rw [ho]; exact id) (by rw [hf]; exact id)

/-! ## Orders (R134) -/

theorem insertOrder_stations (now : Time) (o : Order) (l : List QueuedOrder) :
    (insertOrder now o l).map (fun q => q.order.station) =
      if o.station ∈ l.map (fun q => q.order.station) then l.map (fun q => q.order.station)
      else l.map (fun q => q.order.station) ++ [o.station] := by
  induction l with
  | nil => simp [insertOrder]
  | cons q rest ih =>
    by_cases h : q.order.station = o.station
    · simp [insertOrder, h]
    · simp only [insertOrder, if_neg h, List.map_cons, ih, List.mem_cons]
      split <;> simp_all [eq_comm]

theorem insertOrder_nodup (now : Time) (o : Order) (l : List QueuedOrder)
    (h : (l.map (fun q => q.order.station)).Nodup) :
    ((insertOrder now o l).map (fun q => q.order.station)).Nodup := by
  rw [insertOrder_stations]
  split
  · exact h
  · rename_i hm
    exact List.nodup_append.2 ⟨h, by simp, by
      intro a ha b hb
      simp only [List.mem_singleton] at hb
      subst hb
      exact fun e => hm (e ▸ ha)⟩

theorem keeps_placeOrder (s : State) (o : Order) : Keeps s (s.placeOrder o) :=
  keeps_lineChoose_of s _ (insertOrder_nodup s.now o _) id

theorem keeps_queueStop (s : State) (u) : Keeps s (s.queueStop u) := keeps_placeOrder s _

theorem keeps_resumeScan (s : State) : Keeps s s.resumeScan := by
  unfold State.resumeScan
  split
  · exact keeps_lineFree s _ rfl rfl
  · exact Keeps.refl s

theorem keeps_setMiss (s : State) (a n : Nat) : Keeps s (s.setMiss a n) := by
  unfold State.setMiss
  split
  · exact keeps_setLine s _ rfl rfl id
  · exact Keeps.refl s

/-! ## The error monitor (R183 to R189) -/

/-- A monitor whose counts stay bounded. -/
theorem keeps_setErrors (s : State) (e : ErrorMonitor)
    (hk : (∀ i, s.errors.counters.get i ≤ Config.counterMax) →
      ∀ i, e.counters.get i ≤ Config.counterMax)
    (ho : s.errors.orderSource ≤ Config.counterMax → e.orderSource ≤ Config.counterMax)
    (hn : s.errors.now ≤ Config.timeMax → e.now ≤ Config.timeMax)
    (hs : (s.counter .orderRefused ≠ Config.counterMax → s.errors.orderSource ≤ s.counter .orderRefused) →
      e.counters.get (kindIndex .orderRefused) ≠ Config.counterMax →
        e.orderSource ≤ e.counters.get (kindIndex .orderRefused)) : Keeps s (s.setErrors e) :=
  ⟨fun h => ⟨h.1, h.2, h.3, h.4, h.5, h.6⟩,
   fun h => ⟨hk h.1, ho h.2, h.3, h.4, h.5, hn h.6, hs h.7⟩,
   fun h => ⟨h.1, h.2, h.3, h.4⟩, fun h => ⟨h.1, h.2⟩, fun h => ⟨h.1, h.2, h.3, h.4, h.5⟩,
   rfl, rfl, rfl, rfl⟩

theorem satInc_le (n : Nat) (h : n ≤ Config.counterMax) : satInc n ≤ Config.counterMax := by
  unfold satInc
  split <;> omega

theorem upd_get_le {n : Nat} (v : Vector Nat n) (i j : Fin n) (x b : Nat) (hx : x ≤ b)
    (hv : ∀ k, v.get k ≤ b) : (upd v i x).get j ≤ b := by
  by_cases h : i = j
  · subst h
    simpa using hx
  · rw [upd_get_ne v x h]
    exact hv j

theorem kindIndex_injective (j k : ErrorKind) (h : kindIndex j = kindIndex k) : j = k := by
  revert h
  cases j <;> cases k <;> decide

/-- A count that stays below another does so when both, or the other alone, take one more (R184). -/
theorem satInc_mono {m n : Nat} (h : n ≠ Config.counterMax → m ≤ n) (hn : satInc n ≠ Config.counterMax) :
    satInc m ≤ satInc n ∧ m ≤ satInc n := by
  unfold satInc at *
  split at hn <;> split <;> simp_all <;> omega

theorem keeps_note (s : State) (d : Detection) : Keeps s (s.note d) := by
  refine keeps_setErrors s _ (fun h i => upd_get_le _ _ _ _ _ (satInc_le _ (h _)) h)
    (fun h => ?_) id (fun h => ?_)
  · simp only
    split
    · exact satInc_le _ h
    · exact h
  · by_cases hk : d.kind = .orderRefused
    · simp only [hk, upd_get_self, true_and]
      intro hn
      have := satInc_mono h hn
      split
      · exact this.1
      · exact this.2
    · have hi : kindIndex d.kind ≠ kindIndex .orderRefused := fun e => hk (kindIndex_injective _ _ e)
      simp only [hk, false_and, if_false, upd_get_ne _ _ hi]
      exact h

/-! ## The dispatch port (R164, R165) -/

/-- A port changes and its transmitter chooses: the queues must keep their bounds. -/
theorem keeps_txChoose_of (s : State) (p : DispatchPort)
    (ho : s.port.own.length ≤ Config.ownQueueSize → p.own.length ≤ Config.ownQueueSize)
    (hf : s.port.forwardUp.length ≤ Config.forwardQueueSize →
      p.forwardUp.length ≤ Config.forwardQueueSize)
    (ht : Traffic.Bounded s.port.traffic → Traffic.Bounded p.traffic)
    (hs : (s.port.own.filter OwnFrame.isStatus).length ≤ 1 →
      (p.own.filter OwnFrame.isStatus).length ≤ 1) :
    Keeps s (s.setPort p).txChoose := by
  have base : ∀ q : DispatchPort, (q.tx = none → q.own = [] ∧ q.forwardUp = []) →
      q.own.Sublist p.own → q.forwardUp.length ≤ p.forwardUp.length →
      q.traffic = p.traffic → Keeps s (s.setPort q) := fun q hl h1 h2 h3 =>
    ⟨fun h => ⟨le_trans h1.length_le (ho h.1), le_trans h2 (hf h.2), h.3, h.4, h.5,
       le_trans (h1.filter _).length_le (hs h.6)⟩,
     fun h => ⟨h.1, h.2, by simpa [h3] using ht h.3, h.4, h.5, h.6, h.7⟩,
     fun h => ⟨h.1, h.2, h.3, h.4⟩, fun h => ⟨hl, h.2⟩, fun h => ⟨h.1, h.2, h.3, h.4, h.5⟩,
     rfl, rfl, rfl, rfl⟩
  unfold State.txChoose
  split
  · rename_i x hx
    exact base p (by simp_all) (List.Sublist.refl _) le_rfl rfl
  · rename_i hx
    split
    · rename_i x rest hq
      have hq' : p.own = x :: rest := hq
      exact base _ (by simp) (by simp [hq']) (by simp) rfl
    · rename_i hq
      split
      · rename_i f rest hw
        have e : (s.setPort p).setPort { (s.setPort p).port with forwardUp := rest, tx := some ⟨f, false⟩ }
            = s.setPort { p with forwardUp := rest, tx := some ⟨f, false⟩ } := rfl
        have hw' : p.forwardUp = f :: rest := hw
        exact (e ▸ base { p with forwardUp := rest, tx := some ⟨f, false⟩ } (by simp)
          (List.Sublist.refl _)
          (by simp [hw']) rfl).trans (keeps_resumeScan _)
      · rename_i hw
        exact base p (by simp_all) (List.Sublist.refl _) le_rfl rfl

/-- A frame joins an own queue with a place: a STATUS frame only when none waits there (R166). -/
theorem keeps_joinOwn (s : State) (x : OwnFrame) (h : s.ownFull = false)
    (hx : x.isStatus = true → s.port.own.any OwnFrame.isStatus = false) : Keeps s (s.joinOwn x) :=
  keeps_txChoose_of s _ (fun _ => by
    simp only [State.ownFull, decide_eq_false_iff_not, not_le] at h
    simpa using h) id id (fun k => by
    rw [List.filter_append, List.length_append]
    cases hs : x.isStatus with
    | false => simpa [hs] using k
    | true =>
      have := hx hs
      have e : s.port.own.filter OwnFrame.isStatus = [] := by
        simpa [List.filter_eq_nil_iff] using this
      simp [e, hs])

theorem keeps_detectChain (n : Nat) : ∀ (s : State) (d : Detection), Keeps s (s.detectChain n d) := by
  induction n with
  | zero => exact fun s d => keeps_note s d
  | succ n ih =>
    intro s d
    unfold State.detectChain
    simp only
    split
    · split
      · exact (keeps_note s d).trans (ih _ _)
      · rename_i h
        exact (keeps_note s d).trans (keeps_joinOwn _ _ (by simpa using h) (fun k => by cases k))
    · exact keeps_note s d

theorem keeps_detect (s : State) (d : Detection) : Keeps s (s.detect d) := keeps_detectChain 3 s d

theorem keeps_detectAt (s : State) (k : ErrorKind) (n : Nat) : Keeps s (s.detectAt k n) :=
  keeps_detect s _

theorem keeps_offerOwn (s : State) (f : Frame)
    (hf : f.kind = kindCode .status → s.port.own.any OwnFrame.isStatus = false) :
    Keeps s (s.offerOwn f) := by
  unfold State.offerOwn
  split
  · exact keeps_detect s _
  · rename_i h
    exact keeps_joinOwn s _ (by simpa using h) (fun k => hf (by simpa [OwnFrame.isStatus] using k))

theorem keeps_offerResetReply (s : State) (f : Frame) (hf : f.kind ≠ kindCode .status) :
    Keeps s (s.offerResetReply f) := by
  have hx : (OwnFrame.mk f true).isStatus = false := by simpa [OwnFrame.isStatus] using hf
  have ht : ∀ rest : List OwnFrame, rest.Sublist s.port.own →
      (s.port.own.length ≤ Config.ownQueueSize → rest.length + 1 ≤ Config.ownQueueSize) →
      Keeps s (s.setPort { s.port with own := ⟨f, true⟩ :: rest }).txChoose :=
    fun rest hr h => keeps_txChoose_of s _ h id id (fun k => by
      simpa [hx] using le_trans (hr.filter _).length_le k)
  unfold State.offerResetReply
  split
  · refine (ht _ (List.dropLast_sublist _) (fun k => ?_)).trans (keeps_detect _ _)
    simp only [List.length_dropLast, Config.ownQueueSize] at k ⊢
    omega
  · rename_i h
    refine ht _ (List.Sublist.refl _) (fun _ => ?_)
    simp only [State.ownFull, decide_eq_true_eq, not_le] at h
    simpa using h

/-- A change of the port that leaves its queues and its transmitter. -/
theorem keeps_setPort (s : State) (p : DispatchPort)
    (ho : p.own.map OwnFrame.isStatus = s.port.own.map OwnFrame.isStatus)
    (hf : p.forwardUp = s.port.forwardUp) (hx : p.tx = s.port.tx)
    (ht : Traffic.Bounded s.port.traffic → Traffic.Bounded p.traffic) : Keeps s (s.setPort p) :=
  have hl : p.own.length = s.port.own.length := by simpa using congrArg List.length ho
  have hs : ∀ l : List OwnFrame, (l.filter OwnFrame.isStatus).length
      = ((l.map OwnFrame.isStatus).filter id).length := fun l => by simp [List.filter_map]
  ⟨fun h => ⟨by simpa [hl] using h.1, by simpa [hf] using h.2, h.3, h.4, h.5, by
     have k : (s.port.own.filter OwnFrame.isStatus).length ≤ 1 := h.6
     rw [hs, ← ho, ← hs] at k
     exact k⟩,
   fun h => ⟨h.1, h.2, ht h.3, h.4, h.5, h.6, h.7⟩, fun h => ⟨h.1, h.2, h.3, h.4⟩,
   fun h => ⟨fun i => by
     have := h.1 (hx ▸ i)
     refine ⟨List.length_eq_zero_iff.1 ?_, by simpa [hf] using this.2⟩
     simpa [hl] using this.1, h.2⟩,
   fun h => ⟨h.1, h.2, h.3, h.4, h.5⟩, rfl, rfl, rfl, rfl⟩

theorem keeps_countTraffic (s : State) (c : Traffic → Traffic)
    (hc : ∀ t : Traffic, Traffic.Bounded t → Traffic.Bounded (c t)) : Keeps s (s.countTraffic c) :=
  keeps_setPort s _ rfl rfl rfl (hc _)

theorem keeps_joinForwardUp (s : State) (w : List Frame) (f : Frame)
    (h : s.port.forwardUp.length ≤ Config.forwardQueueSize → w.length < Config.forwardQueueSize) :
    Keeps s (s.joinForwardUp w f) :=
  keeps_txChoose_of s _ id (fun k => by simpa using h k)
    (fun t => ⟨t.1, t.2, satInc_le _ t.3, t.4, t.5, t.6⟩) id

theorem keeps_offerForwardUp (s : State) (f : Frame) : Keeps s (s.offerForwardUp f) := by
  unfold State.offerForwardUp
  split
  · rename_i h
    exact keeps_joinForwardUp s _ f (fun _ => h)
  · split
    · exact keeps_detectAt s _ _
    · exact (keeps_joinForwardUp s _ f (fun hq => by
        simp only [List.length_drop, Config.forwardQueueSize] at hq ⊢
        omega)).trans (keeps_detectAt _ _ _)

theorem keeps_offerForwardDown (s : State) (f : Frame) : Keeps s (s.offerForwardDown f) := by
  unfold State.offerForwardDown
  split
  · rename_i h
    exact (keeps_countTraffic s (fun t => { t with forwardedDown := satInc t.forwardedDown })
      (fun t b => ⟨b.1, b.2, b.3, satInc_le _ b.4, b.5, b.6⟩)).trans
      (keeps_lineChoose_of (s.countTraffic _) _ id (fun _ => by simpa using h))
  · exact keeps_detectAt s _ _

end Sys2Proof.Machine
end

