-- ==== Sys2Proof/Laws/KeepsPlans.lean ====
section
/-! SUPPORT. What the operations of the solver, the trackers, the start queue and the converters keep. -/
namespace Sys2Proof.Machine

/-! ## The solver (R38 to R49, R63) -/

/-- A solver update whose counts stay bounded and which plans only in REMOTE. -/
theorem keeps_setSolver (s : State) (v : Solver)
    (hc : s.solver.completed ≤ Config.counterMax → v.completed ≤ Config.counterMax)
    (hd : s.solver.discarded ≤ Config.counterMax → v.discarded ≤ Config.counterMax)
    (hp : s.isRemote = false → (s.solver.phase = .idle → v.phase = .idle) ∧
      (s.solver.fullPending = false ∧ s.solver.loadPending = false →
        v.fullPending = false ∧ v.loadPending = false) ∧
      (s.solver.resolveNext = none → v.resolveNext = none)) : Keeps s (s.setSolver v) :=
  ⟨fun h => ⟨h.1, h.2, h.3, h.4, h.5, h.6⟩, fun h => ⟨h.1, h.2, h.3, hc h.4, hd h.5, h.6, h.7⟩,
   fun h => ⟨h.1, h.2, h.3, h.4⟩, fun h => ⟨h.1, h.2⟩,
   fun h => ⟨h.1, fun p r => (hp r).1 (h.2 p r), fun p r => (hp r).2.1 (h.3 p r),
     fun p r => (hp r).2.2 (h.4 p r), h.5⟩,
   rfl, rfl, rfl, rfl⟩

/-- A solver update in REMOTE. -/
theorem keeps_setSolver_remote (s : State) (v : Solver) (hr : s.isRemote = true)
    (hc : s.solver.completed ≤ Config.counterMax → v.completed ≤ Config.counterMax)
    (hd : s.solver.discarded ≤ Config.counterMax → v.discarded ≤ Config.counterMax) :
    Keeps s (s.setSolver v) :=
  keeps_setSolver s v hc hd (fun r => by simp [hr] at r)

theorem keeps_startFull (s : State) (hr : s.isRemote = true) : Keeps s s.startFull :=
  keeps_setSolver_remote s _ hr id id

theorem keeps_startLoad (s : State) (hr : s.isRemote = true) : Keeps s s.startLoad :=
  keeps_setSolver_remote s _ hr id id

theorem keeps_discardSolve (s : State) : Keeps s s.discardSolve := by
  unfold State.discardSolve
  split
  · exact Keeps.refl s
  · exact keeps_setSolver s _ id (satInc_le _) (fun _ => ⟨fun _ => rfl, id, id⟩)
  · exact keeps_setSolver s _ id id (fun _ => ⟨fun _ => rfl, id, id⟩)

theorem keeps_takeFullTrigger (s : State) (hr : s.isRemote = true) : Keeps s s.takeFullTrigger := by
  unfold State.takeFullTrigger
  split
  · exact keeps_setSolver_remote s _ hr id id
  · split
    · exact keeps_startFull s hr
    · split
      · exact keeps_setSolver_remote s _ hr id id
      · have h := keeps_discardSolve s
        exact h.trans (keeps_startFull _ (h.remote.trans hr))

theorem keeps_fullTrigger (s : State) (src) : Keeps s (s.fullTrigger src) := by
  unfold State.fullTrigger
  split
  · rename_i h
    exact keeps_takeFullTrigger s (by simp_all)
  · exact Keeps.refl s

theorem keeps_loadTrigger (s : State) : Keeps s s.loadTrigger := by
  unfold State.loadTrigger
  split
  · rename_i hr
    split
    · exact keeps_setSolver_remote s _ hr id id
    · split
      · exact keeps_startLoad s hr
      · exact Keeps.refl s
      · exact keeps_setSolver_remote s _ hr id id
  · exact Keeps.refl s

theorem keeps_fullTriggers (src) (n : Nat) : ∀ s : State, Keeps s (State.fullTriggers src n s) := by
  induction n with
  | zero => exact Keeps.refl
  | succ n ih => exact fun s => (keeps_fullTrigger s src).trans (ih _)

theorem keeps_chooseNextSolve (s : State) (a : Bool) (hr : s.isRemote = true) :
    Keeps s (s.chooseNextSolve a) := by
  have stop : Keeps s (s.setSolver { s.solver with phase := .idle }) :=
    keeps_setSolver_remote s _ hr id id
  have clear : Keeps s (s.setSolver { s.solver with fullPending := false, loadPending := false }) :=
    keeps_setSolver_remote s _ hr id id
  unfold State.chooseNextSolve State.actOnLatches
  split
  · split
    · exact clear.trans (keeps_startFull _ hr)
    · split
      · exact keeps_startLoad s hr
      · exact stop
  · split
    · exact keeps_startLoad s hr
    · exact stop

theorem keeps_handHead (s : State) : Keeps s s.handHead := by
  unfold State.handHead
  split
  · exact keeps_fullTrigger s _
  · exact Keeps.refl s

/-! ## The start queue (R108, R109) -/

/-- Entries leave, or change their hold. -/
theorem keeps_setQueue_sub (s : State) (q : List Entry)
    (h : (q.map (fun e => e.unit)).Sublist (s.queue.map (fun e => e.unit))) :
    Keeps s (s.setQueue q) :=
  ⟨fun k => ⟨k.1, k.2, k.3, k.4, k.5.sublist h, k.6⟩, fun h => ⟨h.1, h.2, h.3, h.4, h.5, h.6, h.7⟩,
   fun h => ⟨h.1, h.2, h.3, h.4⟩, fun h => ⟨h.1, h.2⟩,
   fun k => ⟨fun p r => by
     have e := k.1 p r
     rw [e] at h
     simpa using h.length_le, k.2, k.3, k.4, k.5⟩,
   rfl, rfl, rfl, rfl⟩

theorem keeps_setQueue_filter (s : State) (p : Entry → Bool) :
    Keeps s (s.setQueue (s.queue.filter p)) :=
  keeps_setQueue_sub s _ (List.filter_sublist.map _)

theorem keeps_emptyQueue (s : State) : Keeps s (s.setQueue []) :=
  keeps_setQueue_sub s _ (by simp)

theorem keeps_withdrawEntry (s : State) (u) : Keeps s (s.withdrawEntry u) :=
  keeps_setQueue_filter s _

/-- A new entry of a machine that has none, in REMOTE (R60). -/
theorem keeps_addEntry (s : State) (e : Entry) (hr : s.isRemote = true)
    (h : e.unit ∉ s.queue.map (fun e => e.unit)) : Keeps s (s.setQueue (s.queue ++ [e])) :=
  ⟨fun k => ⟨k.1, k.2, k.3, k.4, by
     simp only [State.setQueue_queue, List.map_append, List.map_cons, List.map_nil]
     exact List.nodup_append.2 ⟨k.5, by simp, by
       intro a ha b hb
       simp only [List.mem_singleton] at hb
       subst hb
       exact fun e => h (e ▸ ha)⟩, k.6⟩,
   fun h => ⟨h.1, h.2, h.3, h.4, h.5, h.6, h.7⟩,
   fun h => ⟨h.1, h.2, h.3, h.4⟩, fun h => ⟨h.1, h.2⟩,
   fun k => ⟨fun _ r => by
     have : (s.isRemote) = false := r
     simp [hr] at this, k.2, k.3, k.4, k.5⟩,
   rfl, rfl, rfl, rfl⟩

/-! ## Trackers (chapter 5) -/

theorem keeps_moveTracker (s : State) (u st g c) : Keeps s (s.moveTracker u st g c) :=
  (keeps_setTracker s u _).trans (keeps_setQueue_filter _ _)

theorem keeps_changeTracker (s : State) (u st g c) : Keeps s (s.changeTracker u st g c) := by
  unfold State.changeTracker
  have h := keeps_moveTracker s u st g c
  simp only
  split <;> split
  · exact (h.trans (keeps_fullTrigger _ _)).trans (keeps_fullTrigger _ _)
  · exact h.trans (keeps_fullTrigger _ _)
  · exact h.trans (keeps_fullTrigger _ _)
  · exact h

theorem keeps_changeConv (s : State) (c st cause) : Keeps s (s.changeConv c st cause) :=
  keeps_setConv s c _

theorem keeps_detachConv (s : State) (c) : Keeps s (s.detachConv c) := by
  unfold State.detachConv
  split
  · exact (keeps_placeOrder s _).trans (keeps_changeConv _ _ _ _)
  · exact Keeps.refl s

theorem keeps_detachGranted (s : State) (t : Tracker) : Keeps s (s.detachGranted t) := by
  unfold State.detachGranted
  split
  · split
    · exact keeps_detachConv s _
    · exact Keeps.refl s
  · exact Keeps.refl s

theorem keeps_stopUnit (s : State) (u) : Keeps s (s.stopUnit u) :=
  (keeps_queueStop s u).trans (keeps_changeTracker _ _ _ _ _)

theorem keeps_faultUnit (s : State) (u cause kind) : Keeps s (s.faultUnit u cause kind) :=
  (((keeps_changeTracker s u _ _ _).trans (keeps_queueStop _ u)).trans
    (keeps_detachGranted _ _)).trans (keeps_detectAt _ _ _)

theorem keeps_tripUnit (s : State) (u) : Keeps s (s.tripUnit u) := by
  unfold State.tripUnit
  split
  · exact keeps_detectAt s _ _
  · exact keeps_faultUnit s u _ _

theorem keeps_mismatchUnit (s : State) (u r) : Keeps s (s.mismatchUnit u r) :=
  ((keeps_detectAt s _ _).trans (keeps_detachGranted _ _)).trans (keeps_changeTracker _ _ _ _ _)

theorem keeps_applyReport (s : State) (u r) : Keeps s (s.applyReport u r) := by
  unfold State.applyReport
  simp only
  split
  · exact Keeps.refl s
  · split
    · split <;> exact keeps_faultUnit s u _ _
    · split
      · exact Keeps.refl s
      · split
        · exact keeps_faultUnit s u _ _
        · exact keeps_changeTracker s u _ _ _
      · exact (keeps_detachGranted s _).trans (keeps_changeTracker _ _ _ _ _)
      · split
        · exact keeps_faultUnit s u _ _
        · exact keeps_mismatchUnit s u r

theorem keeps_takeReport (s : State) (u r) : Keeps s (s.takeReport u r) :=
  (keeps_setTracker s u _).trans (keeps_applyReport _ u r)

theorem keeps_endPin (s : State) (u) : Keeps s (s.endPin u) :=
  (keeps_setTracker s u _).trans (keeps_fullTrigger _ _)

theorem keeps_loseUnit (s : State) (u) : Keeps s (s.loseUnit u) := by
  unfold State.loseUnit
  simp only
  split
  · exact Keeps.refl s
  · exact ((keeps_detachGranted s _).trans (keeps_changeTracker _ _ _ _ _)).trans
      (keeps_detectAt _ _ _)

theorem keeps_repin (s : State) (u old new) : Keeps s (s.repin u old new) := by
  unfold State.repin
  simp only
  split
  · split
    · split
      · exact (keeps_setTracker s u _).trans (keeps_endPin _ u)
      · exact keeps_setTracker s u _
    · exact Keeps.refl s
  · exact Keeps.refl s

/-! ## The admission walk (R110 to R114) -/

theorem walkScan_units (s : State) (q : List Entry) :
    (s.walkScan q).1.map (fun e => e.unit) = q.map (fun e => e.unit) := by
  induction q with
  | nil => rfl
  | cons e rest ih =>
    unfold State.walkScan
    split
    · rfl
    · simp [ih]

theorem keeps_grant (s : State) (u c) : Keeps s (s.grant u c) :=
  (keeps_placeOrder s _).trans (keeps_changeConv _ _ _ _)

theorem keeps_startEntry (s : State) (e : Entry) : Keeps s (s.startEntry e) := by
  have h := keeps_withdrawEntry s e.unit
  unfold State.startEntry
  simp only
  split
  · exact (h.trans (keeps_placeOrder _ _)).trans (keeps_moveTracker _ _ _ _ _)
  · exact (h.trans (keeps_placeOrder _ _)).trans (keeps_moveTracker _ _ _ _ _)
  · split
    · exact (h.trans (keeps_grant _ _ _)).trans (keeps_moveTracker _ _ _ _ _)
    · exact Keeps.refl s

theorem keeps_walkLoop (n : Nat) : ∀ s : State, Keeps s (walkLoop n s).1 := by
  induction n with
  | zero => exact Keeps.refl
  | succ n ih =>
    intro s
    have hq : Keeps s (s.setQueue (s.walkScan s.queue).1) :=
      keeps_setQueue_sub s _ (by rw [walkScan_units])
    unfold walkLoop
    simp only
    split
    · exact hq
    · exact (hq.trans (keeps_startEntry _ _)).trans (ih _)

theorem keeps_admissionWalk (s : State) : Keeps s s.admissionWalk.1 := by
  unfold State.admissionWalk
  split
  · exact keeps_walkLoop _ s
  · exact Keeps.refl s

theorem keeps_runWalk (s : State) : Keeps s s.runWalk :=
  (keeps_admissionWalk s).trans (keeps_fullTriggers _ _ _)

theorem keeps_walkAfter (before s : State) : Keeps s (State.walkAfter before s) := by
  unfold State.walkAfter
  split
  · exact keeps_runWalk s
  · exact Keeps.refl s

/-! ## Converters (chapter 6) -/

theorem keeps_faultConv (s : State) (c cause) : Keeps s (s.faultConv c cause) := by
  have h := (keeps_changeConv s c .faulted cause).trans
    (keeps_detectAt _ .converterFault (convStation c))
  unfold State.faultConv
  simp only
  split
  · exact h.trans (keeps_stopUnit _ _)
  · exact h

theorem keeps_completeAttach (s : State) (c u) : Keeps s (s.completeAttach c u) := by
  unfold State.completeAttach
  split
  · exact (keeps_changeConv s c _ _).trans (keeps_placeOrder _ _)
  · exact (keeps_detachConv s c).trans (keeps_stopUnit _ _)

theorem keeps_mismatchConv (s : State) (c v) : Keeps s (s.mismatchConv c v) :=
  (keeps_changeConv s c _ _).trans (keeps_detectAt _ _ _)

theorem keeps_convIdle (s : State) (c) : Keeps s (s.convIdle c) := by
  unfold State.convIdle
  split
  · exact keeps_changeConv s c _ _
  · exact keeps_changeConv s c _ _
  · exact keeps_changeConv s c _ _
  · exact keeps_changeConv s c _ _
  · exact keeps_faultConv s c _
  all_goals exact Keeps.refl s

theorem keeps_convAttached (s : State) (c v) : Keeps s (s.convAttached c v) := by
  unfold State.convAttached
  split
  · exact keeps_changeConv s c _ _
  · exact keeps_changeConv s c _ _
  · exact keeps_mismatchConv s c v
  · exact keeps_setConv s c _
  · split
    · exact keeps_completeAttach s c _
    · exact keeps_faultConv s c _
  · split
    · exact Keeps.refl s
    · exact keeps_faultConv s c _
  · split
    · exact Keeps.refl s
    · exact keeps_mismatchConv s c v
  all_goals exact Keeps.refl s

theorem keeps_convFault (s : State) (c) : Keeps s (s.convFault c) := by
  unfold State.convFault
  split
  · exact Keeps.refl s
  · exact Keeps.refl s
  · exact keeps_faultConv s c _

theorem keeps_takeConvReport (s : State) (c r) : Keeps s (s.takeConvReport c r) := by
  have h : Keeps s (s.recordConvReport c r) := keeps_setConv s c _
  unfold State.takeConvReport
  simp only
  split
  · exact h.trans (keeps_convIdle _ c)
  · exact h.trans (keeps_convFault _ c)
  · split
    · exact h.trans (keeps_convAttached _ c _)
    · exact h
  · split
    · exact h.trans (keeps_convAttached _ c _)
    · exact h

theorem keeps_expireConv (s : State) (c) : Keeps s (s.expireConv c) := by
  unfold State.expireConv
  split
  · exact keeps_faultConv s c _
  · exact keeps_faultConv s c _
  · exact Keeps.refl s

theorem keeps_loseConv (s : State) (c) : Keeps s (s.loseConv c) := by
  unfold State.loseConv
  split
  · exact Keeps.refl s
  · exact Keeps.refl s
  · simp only
    split
    · exact ((keeps_stopUnit s _).trans (keeps_changeConv _ _ _ _)).trans (keeps_detectAt _ _ _)
    · exact (keeps_changeConv s _ _ _).trans (keeps_detectAt _ _ _)

/-- A fold of operations that each keep what is kept. -/
theorem keeps_foldl {α : Type} (f : State → α → State) (hf : ∀ s x, Keeps s (f s x)) (l : List α) :
    ∀ s : State, Keeps s (l.foldl f s) := by
  induction l with
  | nil => exact Keeps.refl
  | cons x rest ih => exact fun s => (hf s x).trans (ih _)

theorem keeps_loseStation (s : State) (a : Nat) : Keeps s (s.loseStation a) := by
  unfold State.loseStation
  split
  · exact keeps_loseUnit s _
  · refine keeps_foldl _ (fun s c => ?_) _ s
    split
    · exact keeps_loseConv s c
    · exact Keeps.refl s

end Sys2Proof.Machine
end

