-- ==== Sys2Proof/Laws/KeepsTarget.lean ====
section
/-! SUPPORT. What the operations of target and ramp, of the head and of the solves' completions keep. -/
namespace Sys2Proof.Machine

/-! ## Target and ramp (chapter 2) -/

/-- A target within the limits whose ramp timer meets R31, at the same authority. -/
theorem keeps_setTarget (s : State) (x : TargetRamp) (ha : x.setting = s.target.setting)
    (he : x.estopLatch = s.target.estopLatch)
    (hl : s.TargetsInLimits → (s.settings.plantMin ≤ x.tf ∧ x.tf ≤ s.settings.plantMax) ∧
      (s.settings.plantMin ≤ x.te ∧ x.te ≤ s.settings.plantMax))
    (hr : s.processing ≠ .deviceReset → s.PlansOnlyInRemote → x.rampNext ≠ none →
      s.isRemote = true ∧ x.holdFlag = false ∧ x.rate ≠ 0 ∧ x.te ≠ x.tf) :
    Keeps s (s.setTarget x) := by
  have hm : (s.setTarget x).isRemote = s.isRemote := by
    simp [State.isRemote, State.authority, ha, he]
  exact ⟨fun h => ⟨h.1, h.2, h.3, h.4, h.5, h.6⟩, fun h => ⟨h.1, h.2, h.3, h.4, h.5, h.6, h.7⟩,
   fun h => ⟨h.1, h.2, (hl h).1, (hl h).2⟩, fun h => ⟨h.1, h.2⟩,
   fun h => ⟨fun p r => h.1 p (hm ▸ r), fun p r => h.2 p (hm ▸ r), fun p r => h.3 p (hm ▸ r),
     fun p r => h.4 p (hm ▸ r), fun p r => hm.symm ▸ hr p h r⟩,
   hm, rfl, rfl, rfl⟩

theorem clampInt_mem (lo hi x : Int) (h : lo ≤ hi) : lo ≤ clampInt lo hi x ∧ clampInt lo hi x ≤ hi := by
  unfold clampInt
  split
  · omega
  · split <;> omega

theorem State.TargetsInLimits.le {s : State} (h : s.TargetsInLimits) :
    s.settings.plantMin ≤ s.settings.plantMax := le_trans h.min.2 h.max.1

theorem keeps_storeTarget (s : State) (n : Nat) (order : Int) (rate : Nat) (hr : s.isRemote = true) :
    Keeps s (s.storeTarget n order rate) := by
  unfold State.storeTarget
  simp only
  generalize hc : clampInt s.settings.plantMin s.settings.plantMax order = c
  have told : Keeps s (if c ≠ order then s.detectAt .targetClamped n else s) := by
    split
    · exact keeps_detectAt s _ _
    · exact Keeps.refl s
  generalize (if c ≠ order then s.detectAt .targetClamped n else s) = w at told
  refine told.trans (keeps_setTarget w _ rfl rfl (fun h => ?_) (fun _ _ hn => ?_))
  · have hm := clampInt_mem _ _ order h.le
    rw [told.settings, hc] at hm
    rw [told.settings]
    have h3 := h.3
    have h4 := h.4
    rw [told.settings] at h3 h4
    refine ⟨hm, ?_⟩
    simp only
    split <;> assumption
  · refine ⟨told.remote.trans hr, ?_⟩
    simp only at hn ⊢
    generalize (if rate = 0 ∧ w.target.holdFlag = false then c else w.target.te) = te at hn ⊢
    by_cases h : w.target.holdFlag = true ∨ rate = 0 ∨ te = c
    · exact absurd (if_pos h) hn
    · simp only [not_or, Bool.not_eq_true] at h
      exact ⟨h.1, h.2.1, h.2.2⟩

theorem keeps_acceptTarget (s : State) (n : Nat) (order : Int) (rate : Nat) (hr : s.isRemote = true) :
    Keeps s (s.acceptTarget n order rate) := by
  have h := keeps_storeTarget s n order rate hr
  unfold State.acceptTarget
  simp only
  split
  · exact h.trans (keeps_fullTrigger _ _)
  · split
    · exact h.trans (keeps_loadTrigger _)
    · exact h

theorem keeps_acceptHold (s : State) (on : Bool) (hr : s.isRemote = true) :
    Keeps s (s.acceptHold on) := by
  unfold State.acceptHold
  simp only
  split
  · exact Keeps.refl s
  · rename_i hne
    split
    · refine Keeps.trans ?_ (keeps_loadTrigger _)
      exact keeps_setTarget s _ rfl rfl (fun h => ⟨h.3, h.4⟩) (fun _ _ h => absurd rfl h)
    · rename_i hon
      have hold : s.target.holdFlag = true := by
        cases h : s.target.holdFlag <;> simp_all
      have idle : s.processing ≠ .deviceReset → s.PlansOnlyInRemote → s.target.rampNext = none := by
        intro p h
        by_contra hn
        have := (h.5 p hn).2.1
        simp [hold] at this
      have rel : Keeps s (s.setTarget { s.target with holdFlag := false }) :=
        keeps_setTarget s _ rfl rfl (fun h => ⟨h.3, h.4⟩) (fun p h hn => absurd (idle p h) hn)
      split
      · exact rel.trans (keeps_loadTrigger _)
      · split
        · refine Keeps.trans (t := (s.setTarget { s.target with holdFlag := false }).setTargets
            s.target.tf s.target.tf) ?_ (keeps_loadTrigger _)
          exact keeps_setTarget s { s.target with
              holdFlag := false, tf := s.target.tf, te := s.target.tf } rfl rfl
            (fun h => ⟨h.3, h.3⟩) (fun p h hn => absurd (idle p h) hn)
        · rename_i hte hrate
          refine Keeps.trans ?_ (keeps_loadTrigger _)
          exact keeps_setTarget s { s.target with
              holdFlag := false, rampNext := some (s.now + s.settings.rampInterval) } rfl rfl
            (fun h => ⟨h.3, h.4⟩) (fun _ _ _ => ⟨hr, rfl, hrate, hte⟩)

theorem keeps_acceptAdmit (s : State) (u a) : Keeps s (s.acceptAdmit u a) := by
  unfold State.acceptAdmit
  simp only
  split
  · exact Keeps.refl s
  · refine Keeps.trans (t := _) ?_ (keeps_fullTrigger _ _)
    split
    · exact keeps_setTracker s u _
    · exact (keeps_setTracker s u _).trans (keeps_withdrawEntry _ u)

theorem keeps_judgeOrder (s : State) (n src) (f : State → State)
    (hf : s.isRemote = true → Keeps s (f s)) : Keeps s (s.judgeOrder n src f) := by
  unfold State.judgeOrder
  split
  · exact keeps_detect s _
  · split
    · rename_i h
      exact hf h
    · exact keeps_detectAt s _ _

theorem rampToward_between (tf te size : Int) (h : 0 ≤ size) :
    min tf te ≤ rampToward tf te size ∧ rampToward tf te size ≤ max tf te := by
  unfold rampToward
  split
  · omega
  · split <;> omega

theorem keeps_takeRampStep (s : State) (e : Time) (hn : s.target.rampNext ≠ none) :
    Keeps s (s.takeRampStep e) := by
  unfold State.takeRampStep
  refine Keeps.trans ?_ (keeps_loadTrigger _)
  refine keeps_setTarget s _ rfl rfl (fun h => ⟨h.3, ?_⟩) (fun p h hx => ?_)
  · have := rampToward_between s.target.tf s.target.te s.rampSize (by unfold State.rampSize; positivity)
    have h3 := h.3
    have h4 := h.4
    simp only
    omega
  · have := h.5 p hn
    refine ⟨this.1, this.2.1, this.2.2.1, ?_⟩
    simp only at hx ⊢
    split at hx
    · exact absurd rfl hx
    · assumption

theorem keeps_staleOrderNow (s : State) : Keeps s s.staleOrderNow := by
  refine Keeps.trans ?_ (keeps_detectAt _ _ _)
  exact keeps_setTarget s _ rfl rfl (fun h => ⟨h.4, h.4⟩) (fun _ _ h => absurd rfl h)

theorem keeps_staleHeadNow (s : State) : Keeps s s.staleHeadNow :=
  (keeps_setTable s _).trans (keeps_detectAt _ _ _)

theorem keeps_takeHead (s : State) (a b) : Keeps s (s.takeHead a b) :=
  (keeps_setTable s _).trans (keeps_handHead _)

/-! ## The completion of solves (R49, R58 to R61, R80) -/

theorem keeps_placeEntry (s : State) (u k) (hr : s.isRemote = true) :
    Keeps s (s.placeEntry u k).1 := by
  unfold State.placeEntry
  split
  · split
    · exact Keeps.refl s
    · have h := keeps_withdrawEntry s u
      refine h.trans (keeps_addEntry _ _ (h.remote.trans hr) ?_)
      simp [State.withdrawEntry]
  · rename_i h
    refine keeps_addEntry s _ hr ?_
    intro hm
    obtain ⟨e, he, hu⟩ := List.mem_map.1 hm
    have hn := List.find?_eq_none.1 h e he
    simp [hu] at hn

theorem keeps_diffWithdraw (s : State) (u) : Keeps s (s.diffWithdraw u).1 := by
  unfold State.diffWithdraw
  split
  · exact keeps_withdrawEntry s u
  · exact Keeps.refl s

theorem keeps_diffStop (s : State) (u) : Keeps s (s.diffStop u).1 :=
  (keeps_queueStop s u).trans (keeps_moveTracker _ _ _ _ _)

theorem keeps_diffAct (s : State) (n u d) (hr : s.isRemote = true) : Keeps s (s.diffAct n u d).1 := by
  unfold State.diffAct
  simp only
  split
  · split
    · exact keeps_diffWithdraw s u
    · split
      · exact keeps_diffStop s u
      · exact Keeps.refl s
  · split
    · exact keeps_placeEntry s u _ hr
    · split
      · split
        · exact keeps_placeEntry s u _ hr
        · exact keeps_diffStop s u
      · split
        · exact keeps_diffWithdraw s u
        · exact Keeps.refl s
  · split
    · exact keeps_placeEntry s u _ hr
    · split
      · exact keeps_diffStop s u
      · split
        · exact keeps_diffWithdraw s u
        · exact Keeps.refl s

theorem keeps_diffUnit (s : State) (n d u) (hr : s.isRemote = true) :
    Keeps s (s.diffUnit n d u).1 := by
  unfold State.diffUnit
  split
  · exact Keeps.refl s
  · exact keeps_diffAct s n u _ hr

theorem keeps_diffAll (n d) (l : List UnitId) : ∀ s : State, s.isRemote = true →
    Keeps s (State.diffAll n d l s).1 := by
  induction l with
  | nil => exact fun s _ => Keeps.refl s
  | cons u rest ih =>
    intro s hr
    have h := keeps_diffUnit s n d u hr
    exact h.trans (ih _ (h.remote.trans hr))

theorem keeps_publishDeviation (s : State) (d) : Keeps s (s.publishDeviation d) := by
  have h : Keeps s (s.setSolver { s.solver with deviation := d }) :=
    keeps_setSolver s _ id id (fun _ => ⟨id, id, id⟩)
  unfold State.publishDeviation
  simp only
  split
  · exact h.trans (keeps_detectAt _ _ _)
  · exact h

theorem keeps_sendSetpoint (s : State) (p) : Keeps s (s.sendSetpoint p) := by
  unfold State.sendSetpoint
  simp only
  split
  · exact (keeps_setTracker s _ _).trans (keeps_placeOrder _ _)
  · exact Keeps.refl s

theorem keeps_applyLoading (s : State) (l w) : Keeps s (s.applyLoading l w) := by
  refine (keeps_publishDeviation s _).trans (keeps_foldl _ (fun s p => ?_) _ _)
  split
  · exact Keeps.refl s
  · exact keeps_sendSetpoint s p

theorem keeps_applyPlan (s : State) (n) (hr : s.isRemote = true) : Keeps s (s.applyPlan n).1 := by
  unfold State.applyPlan
  simp only
  have hd := keeps_diffAll n (fun u => (n.desired n.commit u).1) (diffOrder n.commit.added) s hr
  generalize State.diffAll n (fun u => (n.desired n.commit u).1) (diffOrder n.commit.added) s = da at hd
  have hw : Keeps s (if da.2.any (fun p => p.2.placesEntry) then da.1.admissionWalk else (da.1, 0)).1 := by
    split
    · exact hd.trans (keeps_admissionWalk _)
    · exact hd
  generalize (if da.2.any (fun p => p.2.placesEntry) then da.1.admissionWalk else (da.1, 0)) = wa at hw
  have hl := hw.trans (keeps_applyLoading wa.1 (n.loading (some (fun u => (n.desired n.commit u).1)))
    (fun u => actionOf da.2 u == .leftOut || actionOf da.2 u == .stop))
  exact hl.trans (keeps_setSolver_remote _ _ (hl.remote.trans hr) (satInc_le _) id)

theorem keeps_completeFull (s : State) (n) (hr : s.isRemote = true) : Keeps s (s.completeFull n) := by
  have h := keeps_applyPlan s n hr
  exact (h.trans (keeps_chooseNextSolve _ _ (h.remote.trans hr))).trans (keeps_fullTriggers _ _ _)

theorem keeps_completeLoad (s : State) (n) (hr : s.isRemote = true) : Keeps s (s.completeLoad n) := by
  have h := keeps_applyLoading s (n.loading none) (fun _ => false)
  exact h.trans (keeps_chooseNextSolve _ _ (h.remote.trans hr))

end Sys2Proof.Machine
end

