-- ==== Sys2Proof/Laws/KeepsCommands.lean ====
section
/-! SUPPORT. What the commands keep: every invariant of Sys2Proof/Safety.lean and the queue of commands.
The proofs compose the lemmas of the shared operations. -/
namespace Sys2Proof.Machine

/-- From `s` to `t` every invariant of Safety is kept and the queue of commands is the same. -/
structure Safe (s t : State) : Prop where
  queues : s.QueuesBounded → t.QueuesBounded
  counters : s.CountersBounded → t.CountersBounded
  limits : s.TargetsInLimits → t.TargetsInLimits
  links : s.LinksBusy → t.LinksBusy
  plans : s.PlansOnlyInRemote → t.PlansOnlyInRemote
  pending : t.pending = s.pending

theorem Keeps.safe {s t : State} (h : Keeps s t) : Safe s t :=
  ⟨h.queues, h.counters, h.limits, h.links, h.plans, h.pending⟩

theorem Safe.refl (s : State) : Safe s s := (Keeps.refl s).safe

theorem Safe.trans {s t u : State} (h : Safe s t) (k : Safe t u) : Safe s u :=
  ⟨k.queues ∘ h.queues, k.counters ∘ h.counters, k.limits ∘ h.limits, k.links ∘ h.links,
   k.plans ∘ h.plans, k.pending.trans h.pending⟩

/-! ## Authority transitions (R19 to R25) -/

/-- What an authority transition keeps besides `PlansOnlyInRemote`. -/
structure Holds (s t : State) : Prop where
  queues : s.QueuesBounded → t.QueuesBounded
  counters : s.CountersBounded → t.CountersBounded
  limits : s.TargetsInLimits → t.TargetsInLimits
  links : s.LinksBusy → t.LinksBusy
  settings : t.settings = s.settings
  processing : t.processing = s.processing
  pending : t.pending = s.pending

theorem Keeps.holds {s t : State} (h : Keeps s t) : Holds s t :=
  ⟨h.queues, h.counters, h.limits, h.links, h.settings, h.processing, h.pending⟩

theorem Holds.trans {s t u : State} (h : Holds s t) (k : Holds t u) : Holds s u :=
  ⟨k.queues ∘ h.queues, k.counters ∘ h.counters, k.limits ∘ h.limits, k.links ∘ h.links,
   k.settings.trans h.settings, k.processing.trans h.processing, k.pending.trans h.pending⟩

theorem Holds.safe {s t : State} (h : Holds s t) (p : s.PlansOnlyInRemote → t.PlansOnlyInRemote) :
    Safe s t := ⟨h.queues, h.counters, h.limits, h.links, p, h.pending⟩

/-- A target within the limits. -/
theorem holds_setTarget (s : State) (x : TargetRamp)
    (hl : s.TargetsInLimits → (s.settings.plantMin ≤ x.tf ∧ x.tf ≤ s.settings.plantMax) ∧
      (s.settings.plantMin ≤ x.te ∧ x.te ≤ s.settings.plantMax)) : Holds s (s.setTarget x) :=
  ⟨fun h => ⟨h.1, h.2, h.3, h.4, h.5, h.6⟩, fun h => ⟨h.1, h.2, h.3, h.4, h.5, h.6, h.7⟩,
   fun h => ⟨h.1, h.2, (hl h).1, (hl h).2⟩, fun h => ⟨h.1, h.2⟩, rfl, rfl, rfl⟩

theorem holds_setInputs (s : State) (x : Inputs) : Holds s (s.setInputs x) :=
  ⟨fun h => ⟨h.1, h.2, h.3, h.4, h.5, h.6⟩, fun h => ⟨h.1, h.2, h.3, h.4, h.5, h.6, h.7⟩,
   fun h => ⟨h.1, h.2, h.3, h.4⟩, fun h => ⟨h.1, h.2⟩, rfl, rfl, rfl⟩

/-- The plans are all dropped. -/
theorem plans_of_dropped (t : State) (h1 : t.queue = []) (h2 : t.solver.phase = .idle)
    (h3 : t.solver.fullPending = false ∧ t.solver.loadPending = false)
    (h4 : t.solver.resolveNext = none) (h5 : t.target.rampNext = none) : t.PlansOnlyInRemote :=
  ⟨fun _ _ => h1, fun _ _ => h2, fun _ _ => h3, fun _ _ => h4, fun _ h => absurd h5 h⟩

theorem dropSolves_idle (s : State) : s.dropSolves.solver.phase = .idle ∧
    s.dropSolves.solver.fullPending = false ∧ s.dropSolves.solver.loadPending = false := by
  unfold State.dropSolves State.discardSolve
  split <;> simp_all

theorem keeps_dropSolves (s : State) : Keeps s s.dropSolves :=
  (keeps_discardSolve s).trans
    (keeps_setSolver _ _ id id (fun _ => ⟨id, fun _ => ⟨rfl, rfl⟩, id⟩))

theorem dropSolves_queue (s : State) : s.dropSolves.queue = s.queue := by
  unfold State.dropSolves State.discardSolve
  split <;> rfl

theorem dropSolves_target (s : State) : s.dropSolves.target = s.target := by
  unfold State.dropSolves State.discardSolve
  split <;> rfl

theorem keeps_pruneOrders (s : State) (p : QueuedOrder → Bool) :
    Keeps s (s.setLine { s.line with orders := s.line.orders.filter p }) :=
  ⟨fun h => ⟨h.1, h.2, h.3, h.4.sublist (List.filter_sublist.map _), h.5, h.6⟩,
   fun h => ⟨h.1, h.2, h.3, h.4, h.5, h.6, h.7⟩, fun h => ⟨h.1, h.2, h.3, h.4⟩,
   fun h => ⟨h.1, fun i => ⟨by simp [(h.2 i).1], (h.2 i).2⟩⟩,
   fun h => ⟨h.1, h.2, h.3, h.4, h.5⟩, rfl, rfl, rfl, rfl⟩

theorem keeps_clearLastSent (s : State) : Keeps s s.clearLastSent := keeps_setTrackers s _

/-- Leaving REMOTE drops every plan (R25). -/
theorem leaveRemote_plans (s : State) : s.leaveRemote.PlansOnlyInRemote := by
  have h := dropSolves_idle (s.setQueue [])
  have hq := dropSolves_queue (s.setQueue [])
  exact plans_of_dropped _ hq h.1 h.2 rfl rfl

theorem holds_leaveRemote (s : State) : Holds s s.leaveRemote := by
  have h1 := (keeps_emptyQueue s).trans (keeps_dropSolves _)
  have h2 : Keeps (s.setQueue []).dropSolves ((s.setQueue []).dropSolves.setSolver
      { (s.setQueue []).dropSolves.solver with resolveNext := none }) :=
    keeps_setSolver _ _ id id (fun _ => ⟨id, id, fun _ => rfl⟩)
  have h3 := ((h1.trans h2).trans (keeps_pruneOrders _
    (fun q => !q.order.removedOnLeavingRemote))).trans (keeps_clearLastSent _)
  exact h3.holds.trans (holds_setTarget _ _ (fun h => ⟨h.3, h.4⟩))

theorem isRemote_eq (s : State) : s.isRemote = true ↔ s.authority = .remote := by
  simp [State.isRemote]

theorem keeps_enterRemote (s : State) : Keeps s s.enterRemote := by
  unfold State.enterRemote
  refine Keeps.trans ?_ (keeps_fullTrigger _ _)
  refine keeps_setTarget s _ rfl rfl (fun h => ?_) (fun _ _ h => absurd rfl h)
  exact ⟨clampInt_mem _ _ _ h.le, clampInt_mem _ _ _ h.le⟩

theorem enterRemote_ramp (s : State) : s.enterRemote.target.rampNext = none :=
  congrArg TargetRamp.rampNext (frame_fullTrigger _ .authority .target (by decide))

theorem authority_of_not_remote (s : State) (h : s.authority ≠ .remote) : s.isRemote = false := by
  simpa [State.isRemote] using h

/-- A change of the authority's inputs, with the transition it makes (R19): the changed state has the plans
of the state before. -/
theorem safe_afterAuthority (s t : State) (h : Holds s t) (hq : t.queue = s.queue)
    (hs : t.solver = s.solver) (hl : t.target.estopLatch = s.target.estopLatch)
    (hramp : t.target.rampNext = s.target.rampNext ∧ t.target.holdFlag = s.target.holdFlag ∧
      t.target.rate = s.target.rate ∧ t.target.te = s.target.te ∧ t.target.tf = s.target.tf) :
    Safe s (t.afterAuthority s.authority) := by
  have stay : t.isRemote = s.isRemote → Safe s t := fun hr => h.safe (fun p =>
    ⟨fun a b => by rw [hq]; exact p.1 (h.processing ▸ a) (hr ▸ b),
      fun a b => by rw [hs]; exact p.2 (h.processing ▸ a) (hr ▸ b),
      fun a b => by rw [hs]; exact p.3 (h.processing ▸ a) (hr ▸ b),
      fun a b => by rw [hs]; exact p.4 (h.processing ▸ a) (hr ▸ b),
      fun a b => by
        have := p.5 (h.processing ▸ a) (hramp.1 ▸ b)
        rw [hr, hramp.2.1, hramp.2.2.1, hramp.2.2.2.1, hramp.2.2.2.2]
        exact this⟩)
  have latch : s.authority = .estop ↔ t.authority = .estop := by
    unfold State.authority
    rw [hl]
    cases s.target.estopLatch
    · constructor <;> intro h <;> simp at h <;> split at h <;>
        first | contradiction | (split at h <;> contradiction)
    · simp
  unfold State.afterAuthority
  split
  · exact (h.trans (holds_leaveRemote t)).safe (fun _ => leaveRemote_plans t)
  · rename_i hw hn
    have hr : t.isRemote = true := (isRemote_eq t).2 hn
    have k := keeps_enterRemote t
    have r : t.enterRemote.isRemote = true := k.remote.trans hr
    exact (h.trans k.holds).safe (fun _ =>
      ⟨fun _ b => by simp [r] at b, fun _ b => by simp [r] at b, fun _ b => by simp [r] at b,
       fun _ b => by simp [r] at b, fun _ b => absurd (enterRemote_ramp t) b⟩)
  · rename_i h1 h2
    apply stay
    cases hs' : s.authority <;> cases ht : t.authority <;> simp_all [State.isRemote]

/-! ## The emergency stop (R21, R22) -/

theorem keeps_estopStops (s : State) (l : List UnitId) : Keeps s (l.foldl
    (fun acc u => if (acc.tracker u).state.stoppedByEstop then acc.stopUnit u else acc) s) :=
  keeps_foldl _ (fun s u => by
    split
    · exact keeps_stopUnit s u
    · exact Keeps.refl s) _ s

theorem keeps_estopDetaches (s : State) (l : List ConvId) :
    Keeps s (l.foldl (fun acc c => acc.detachConv c) s) :=
  keeps_foldl _ (fun s c => keeps_detachConv s c) _ s

theorem keeps_estopActions (s : State) : Keeps s s.estopActions := by
  have h := ((keeps_estopStops s allUnits).trans (keeps_estopDetaches _ allConvs)).trans
    (keeps_emptyQueue _)
  unfold State.estopActions
  simp only
  refine h.trans ?_
  generalize State.setQueue _ [] = w
  exact keeps_setTarget w _ rfl rfl (fun k => ⟨⟨k.1.2, k.2.1⟩, ⟨k.1.2, k.2.1⟩⟩)
    (fun _ _ k => absurd rfl k)

theorem safe_latchEstop (s : State) : Safe s s.latchEstop := by
  have h1 : Holds s (s.setTarget { s.target with estopLatch := true }) :=
    holds_setTarget s _ (fun h => ⟨h.3, h.4⟩)
  have k := keeps_estopActions (s.setTarget { s.target with estopLatch := true })
  unfold State.latchEstop
  simp only
  refine Safe.trans ?_ (keeps_detectAt _ _ _).safe
  split
  · exact ((h1.trans k.holds).trans (holds_leaveRemote _)).safe (fun _ => leaveRemote_plans _)
  · rename_i hn
    have hr := authority_of_not_remote s hn
    have hr' : (s.setTarget { s.target with estopLatch := true }).isRemote = false := by
      simp [State.isRemote, State.authority]
    refine (h1.trans k.holds).safe (fun p => k.plans ?_)
    exact ⟨fun a _ => p.1 a hr, fun a _ => p.2 a hr, fun a _ => p.3 a hr, fun a _ => p.4 a hr,
      fun a b => by have := p.5 a b; simp [hr] at this⟩

theorem safe_assertEstop (s : State) : Safe s s.assertEstop :=
  Safe.trans (keeps_setInputs s { s.inputs with estopFlag := true } rfl).safe (safe_latchEstop _)

theorem keeps_assertTrip (s : State) (u) : Keeps s (s.assertTrip u) :=
  Keeps.trans (keeps_setInputs s { s.inputs with tripFlag := upd s.inputs.tripFlag u true } rfl)
    (keeps_tripUnit _ u)

theorem safe_rederive (s : State) (a : Bool) : Safe s (s.rederive a) := by
  refine Safe.trans ?_ (keeps_walkAfter _ _).safe
  exact safe_afterAuthority s _ ((holds_setInputs s _).trans (holds_setInputs _ _)) rfl rfl rfl
    ⟨rfl, rfl, rfl, rfl, rfl⟩

theorem safe_onLocalLine (s : State) (a : Bool) : Safe s (s.onLocalLine a) := by
  unfold State.onLocalLine
  split
  · rename_i hp
    exact (holds_setInputs s _).safe (fun _ =>
      ⟨fun p _ => absurd hp p, fun p _ => absurd hp p, fun p _ => absurd hp p,
       fun p _ => absurd hp p, fun p _ => absurd hp p⟩)
  · exact safe_rederive s a

theorem safe_setAuthority (s : State) (v) : Safe s (s.setAuthority v) := by
  refine Safe.trans ?_ (keeps_walkAfter _ _).safe
  exact safe_afterAuthority s _ (holds_setTarget s _ (fun h => ⟨h.3, h.4⟩)) rfl rfl rfl
    ⟨rfl, rfl, rfl, rfl, rfl⟩

theorem safe_clearEstop (s : State) : Safe s s.clearEstop.1 := by
  unfold State.clearEstop
  split
  · exact Safe.refl s
  · split
    · exact Safe.refl s
    · rename_i hl _
      have hr : s.isRemote = false := by
        simp [State.isRemote, State.authority, hl]
      refine Holds.safe (holds_setTarget s _ ?_) (fun p => ?_)
      · exact fun h => ⟨h.3, h.4⟩
      · exact ⟨fun a _ => p.1 a hr, fun a _ => p.2 a hr, fun a _ => p.3 a hr, fun a _ => p.4 a hr,
          fun a b => by have := p.5 a b; simp [hr] at this⟩

end Sys2Proof.Machine
end

