-- ==== Sys2Proof/Laws/KeepsExec.lean ====
section
/-! SUPPORT. What the unit line, the three resets, the management writes, clears and actions keep: the
invariants of Sys2Proof/Safety.lean and the queue of commands. -/
namespace Sys2Proof.Machine

/-! ## The scan and the line (chapter 7) -/

theorem withoutAdvance_idle (a : LineActivity) (h : a.withoutAdvance = .idle) : a = .idle := by
  unfold LineActivity.withoutAdvance at h
  split at h <;> simp_all

theorem keeps_restartScan (s : State) : Keeps s s.restartScan := keeps_lineFree s _ rfl rfl

theorem keeps_stopScan (s : State) : Keeps s s.stopScan := by
  unfold State.stopScan
  split
  · exact Keeps.refl s
  · split
    · exact keeps_setLine s _ rfl rfl id
    · exact keeps_setLine s _ rfl rfl id

theorem keeps_configScan (s : State) (v) : Keeps s (s.configScan v) := by
  unfold State.configScan
  refine Keeps.trans ?_ (keeps_restartScan _)
  exact keeps_setLine s _ rfl rfl id

/-- The scan's decisions touch the scan alone. -/
theorem advanceScan_line (s : State) (a : Nat) (adv : Bool) :
    ∃ l, s.advanceScan a adv = s.setLine l ∧ l.orders = s.line.orders ∧
      l.forwardDown = s.line.forwardDown := by
  unfold State.advanceScan
  refine ⟨_, rfl, ?_, ?_⟩ <;> (repeat' split) <;> rfl

theorem keeps_closeWindow (s : State) (a adv) : Keeps s (s.closeWindow a adv) := by
  obtain ⟨l, e, h1, h2⟩ := advanceScan_line s a adv
  unfold State.closeWindow
  simp only [e]
  exact keeps_lineFree s { l with activity := .idle } h1 h2

theorem keeps_beginLineReset (s : State) : Keeps s s.beginLineReset :=
  ⟨fun h => ⟨h.1, h.2, by simp [State.beginLineReset], by simp [State.beginLineReset], h.5, h.6⟩,
   fun h => ⟨h.1, h.2, h.3, h.4, h.5, h.6, h.7⟩, fun h => ⟨h.1, h.2, h.3, h.4⟩,
   fun h => ⟨h.1, fun _ => ⟨rfl, rfl⟩⟩, fun h => ⟨h.1, h.2, h.3, h.4, h.5⟩, rfl, rfl, rfl, rfl⟩

theorem keeps_endLineReset (s : State) : Keeps s s.endLineReset := keeps_lineFree s _ rfl rfl

theorem keeps_countMiss (s : State) (a) : Keeps s (s.countMiss a) := by
  unfold State.countMiss
  split
  · have h : Keeps s ((s.setMiss a (min (s.missCount a + 1) s.settings.missLimit)).detectAt
        .pollMiss a) := (keeps_setMiss s _ _).trans (keeps_detectAt _ _ _)
    simp only
    split
    · exact (h.trans (keeps_loseStation _ a)).trans (keeps_walkAfter _ _)
    · exact h
  · exact Keeps.refl s

theorem keeps_missWindow (s : State) (a adv) : Keeps s (s.missWindow a adv) :=
  (keeps_countMiss s a).trans (keeps_closeWindow _ _ _)

theorem keeps_windowTimeout (s : State) : Keeps s s.windowTimeout := by
  unfold State.windowTimeout
  split
  · split
    · exact keeps_setLine s _ rfl rfl (by simp)
    · exact keeps_missWindow s _ _
  · exact Keeps.refl s

theorem keeps_lineSent (s : State) : Keeps s s.lineSent := by
  unfold State.lineSent
  split
  · exact keeps_lineFree s _ rfl rfl
  · exact keeps_lineFree s _ rfl rfl
  · exact Keeps.refl s

theorem keeps_pollSent (s : State) : Keeps s s.pollSent := by
  unfold State.pollSent
  split
  · exact keeps_setLine s _ rfl rfl (by simp)
  · exact Keeps.refl s

theorem keeps_startReception (s : State) : Keeps s s.startReception := keeps_setLine s _ rfl rfl id

theorem keeps_endReception (s : State) : Keeps s s.endReception := keeps_setLine s _ rfl rfl id

/-! ## Resets (R63, R178, R179) -/

/-- A state whose blocks are those of `State.reset` but for the inputs, the line (with its queues empty),
the processing and the queue of commands. -/
theorem safe_reset (s : State) (i : Inputs) (l : UnitLine) (ho : l.orders = [])
    (hf : l.forwardDown = []) (p : Processing) :
    Safe s ((((State.reset.setInputs i).setPending s.pending).setLine l).setProcessing p) :=
  ⟨fun _ => ⟨Nat.zero_le _, Nat.zero_le _, by simp [hf], by simp [ho], List.nodup_nil, Nat.zero_le _⟩,
   fun _ => ⟨fun k => by
      show (Vector.replicate 18 0).get k ≤ _
      simp [Vector.get_eq_getElem], Nat.zero_le _,
    ⟨Nat.zero_le _, Nat.zero_le _, Nat.zero_le _, Nat.zero_le _, Nat.zero_le _, Nat.zero_le _⟩,
    Nat.zero_le _, Nat.zero_le _, Nat.zero_le _, fun _ => Nat.zero_le _⟩,
   fun _ => ⟨⟨by show (-30000 : Int) ≤ 0; decide, le_rfl⟩, ⟨le_rfl, by show (0 : Int) ≤ 30000; decide⟩,
     ⟨le_rfl, le_rfl⟩, ⟨le_rfl, le_rfl⟩⟩,
   fun _ => ⟨fun _ => ⟨rfl, rfl⟩, fun _ => ⟨ho, hf⟩⟩,
   fun _ => plans_of_dropped _ rfl rfl ⟨rfl, rfl⟩ rfl rfl, rfl⟩

theorem safe_beginDeviceReset (s : State) : Safe s s.beginDeviceReset :=
  safe_reset s s.inputs.cleared
    { UnitLine.reset with rx := cutReception s.line.rx, activity := .resetting } rfl rfl _

theorem safe_deviceResetValues (s : State) : Safe s s.deviceResetValues :=
  safe_reset s s.inputs.cleared { UnitLine.reset with rx := cutReception s.line.rx } rfl rfl .none

theorem safe_foldl {α : Type} (f : State → α → State) (hf : ∀ s x, Safe s (f s x)) (l : List α) :
    ∀ s : State, Safe s (l.foldl f s) := by
  induction l with
  | nil => exact Safe.refl
  | cons x rest ih => exact fun s => (hf s x).trans (ih _)

theorem safe_assertAtResetEnd (s : State) : Safe s s.assertAtResetEnd := by
  have h1 : Safe s s.assertEstopHeld := by
    unfold State.assertEstopHeld
    split
    · exact safe_assertEstop s
    · exact Safe.refl s
  have h2 : ∀ w : State, Safe w w.assertTripsHeld := fun w =>
    safe_foldl _ (fun s u => by
      split
      · exact (keeps_assertTrip s u).safe
      · exact Safe.refl s) allUnits w
  have h3 : ∀ w : State, Safe w w.flagLocalHeld := fun w => by
    unfold State.flagLocalHeld
    split
    · exact (keeps_setInputs w { w.inputs with localFlag := true } rfl).safe
    · exact Safe.refl w
  exact (h1.trans (h2 _)).trans (h3 _)

theorem safe_endDeviceReset (s : State) : Safe s s.endDeviceReset :=
  ((safe_deviceResetValues s).trans (safe_assertAtResetEnd _)).trans (keeps_lineChoose _).safe

theorem safe_setProcessing_none (s : State) (hp : s.processing ≠ .deviceReset) (p : Processing) :
    Safe s (s.setProcessing p) :=
  ⟨fun h => ⟨h.1, h.2, h.3, h.4, h.5, h.6⟩, fun h => ⟨h.1, h.2, h.3, h.4, h.5, h.6, h.7⟩,
   fun h => ⟨h.1, h.2, h.3, h.4⟩, fun h => ⟨h.1, h.2⟩,
   fun h => ⟨fun _ => h.1 hp, fun _ => h.2 hp, fun _ => h.3 hp, fun _ => h.4 hp, fun _ => h.5 hp⟩, rfl⟩

theorem safe_actOnLatches (s : State) (hp : s.processing ≠ .deviceReset) : Safe s s.actOnLatches := by
  have idle : Keeps s (s.setSolver { s.solver with phase := .idle }) :=
    keeps_setSolver s _ id id (fun _ => ⟨fun _ => rfl, id, id⟩)
  by_cases hr : s.isRemote = true
  · have h := keeps_chooseNextSolve s false hr
    unfold State.chooseNextSolve at h
    split at h
    · exact h.safe
    · rename_i hn
      simp only [Bool.or_eq_true, not_or, Bool.not_eq_true] at hn
      unfold State.actOnLatches
      rw [if_neg (by simp [hn.1]), if_neg (by simp [hn.2])]
      exact idle.safe
  · simp only [Bool.not_eq_true] at hr
    unfold State.actOnLatches
    have k1 : Keeps s (s.setSolver { s.solver with fullPending := false, loadPending := false }) :=
      keeps_setSolver s _ id id (fun _ => ⟨id, fun _ => ⟨rfl, rfl⟩, id⟩)
    have full : ∀ w : State, s.solver.fullPending = true → Holds s w → Safe s w := fun w hf h =>
      h.safe (fun p => by have := (p.3 hp hr).1; simp [hf] at this)
    have load : ∀ w : State, s.solver.loadPending = true → Holds s w → Safe s w := fun w hf h =>
      h.safe (fun p => by have := (p.3 hp hr).2; simp [hf] at this)
    have hold : ∀ (x : State) (v : Solver), v.completed = x.solver.completed →
        v.discarded = x.solver.discarded → Holds x (x.setSolver v) := fun x v h1 h2 =>
      ⟨fun h => ⟨h.1, h.2, h.3, h.4, h.5, h.6⟩,
       fun h => ⟨h.1, h.2, h.3, by simpa [h1] using h.4, by simpa [h2] using h.5, h.6, h.7⟩,
       fun h => ⟨h.1, h.2, h.3, h.4⟩, fun h => ⟨h.1, h.2⟩, rfl, rfl, rfl⟩
    split
    · rename_i hf
      exact full _ hf (k1.holds.trans (hold _ _ rfl rfl))
    · split
      · rename_i hl
        exact load _ hl (hold s _ rfl rfl)
      · exact idle.safe

theorem safe_endEngineReset (s : State) (hp : s.processing = .engineReset) :
    Safe s s.endEngineReset :=
  (safe_setProcessing_none s (by simp [hp]) .none).trans (safe_actOnLatches _ (by simp))

theorem safe_beginEngineReset (s : State) (hp : s.processing ≠ .deviceReset) :
    Safe s s.beginEngineReset := by
  have h1 := (keeps_emptyQueue s).trans (keeps_dropSolves _)
  have h2 : Keeps (s.setQueue []).dropSolves ((s.setQueue []).dropSolves.setSolver
      { (s.setQueue []).dropSolves.solver with deviation := 0 }) :=
    keeps_setSolver _ _ id id (fun _ => ⟨id, id, id⟩)
  have h3 := h1.trans h2
  unfold State.beginEngineReset
  simp only
  generalize ((s.setQueue []).dropSolves.setSolver
      { (s.setQueue []).dropSolves.solver with deviation := 0 }) = w at h3
  have h4 : Keeps w (w.setTarget { w.target with
      tf := w.target.te, holdFlag := false, rampNext := none }) :=
    keeps_setTarget w _ rfl rfl (fun h => ⟨h.4, h.4⟩) (fun _ _ h => absurd rfl h)
  have h5 := ((h3.trans h4).trans (keeps_setTrackers _ (mapUnits (·.engineReset s.now) w.trackers))).trans
    (keeps_setConvs _ #v[(w.conv 0).engineReset s.now, (w.conv 1).engineReset s.now])
  exact h5.safe.trans (safe_setProcessing_none _ (by rw [h5.processing]; exact hp) _)

/-! ## SETTINGS (R174) -/

theorem store_limits (t t' : Settings) (bit raw : Nat) (h : t.store bit raw = some t')
    (hmin : -30000 ≤ t.plantMin ∧ t.plantMin ≤ 0) (hmax : 0 ≤ t.plantMax ∧ t.plantMax ≤ 30000) :
    (-30000 ≤ t'.plantMin ∧ t'.plantMin ≤ 0) ∧ (0 ≤ t'.plantMax ∧ t'.plantMax ≤ 30000) := by
  unfold Settings.store at h
  split at h
  case h_4 =>
    unfold keepIf at h
    split at h
    · rename_i hk
      simp only [Bool.and_eq_true, decide_eq_true_eq] at hk
      cases h
      exact ⟨hk, hmax⟩
    · contradiction
  case h_5 =>
    unfold keepIf at h
    split at h
    · rename_i hk
      simp only [Bool.and_eq_true, decide_eq_true_eq] at hk
      cases h
      exact ⟨hmin, hk⟩
    · contradiction
  case h_11 =>
    split at h
    · cases h; exact ⟨hmin, hmax⟩
    · split at h
      · cases h; exact ⟨hmin, hmax⟩
      · contradiction
  case h_22 =>
    obtain ⟨a, _, e⟩ := Option.map_eq_some_iff.1 h
    subst e
    exact ⟨hmin, hmax⟩
  case h_23 =>
    obtain ⟨a, _, e⟩ := Option.map_eq_some_iff.1 h
    subst e
    exact ⟨hmin, hmax⟩
  case h_24 =>
    split at h
    · unfold keepIf at h
      split at h
      · cases h; exact ⟨hmin, hmax⟩
      · contradiction
    · contradiction
  all_goals
    unfold keepIf at h
    split at h
    · cases h; exact ⟨hmin, hmax⟩
    · contradiction

theorem storeAll_limits (l : List (Nat × Nat)) : ∀ (t t' : Settings), Settings.storeAll l t = some t' →
    -30000 ≤ t.plantMin ∧ t.plantMin ≤ 0 → 0 ≤ t.plantMax ∧ t.plantMax ≤ 30000 →
    (-30000 ≤ t'.plantMin ∧ t'.plantMin ≤ 0) ∧ (0 ≤ t'.plantMax ∧ t'.plantMax ≤ 30000) := by
  induction l with
  | nil =>
    intro t t' h hmin hmax
    cases h
    exact ⟨hmin, hmax⟩
  | cons x rest ih =>
    obtain ⟨i, raw⟩ := x
    intro t t' h hmin hmax
    unfold Settings.storeAll at h
    split at h
    · rename_i t1 h1
      have k := store_limits t t1 i raw h1 hmin hmax
      exact ih t1 t' h k.1 k.2
    · contradiction

theorem readSettings_limits (t t' : Settings) (r : List Byte) (h : readSettings t r = some t')
    (hmin : -30000 ≤ t.plantMin ∧ t.plantMin ≤ 0) (hmax : 0 ≤ t.plantMax ∧ t.plantMax ≤ 30000) :
    (-30000 ≤ t'.plantMin ∧ t'.plantMin ≤ 0) ∧ (0 ≤ t'.plantMax ∧ t'.plantMax ≤ 30000) := by
  unfold readSettings at h
  split at h
  · contradiction
  · split at h
    · contradiction
    · split at h
      · rename_i w hw
        split at h
        · cases h
          exact storeAll_limits _ t _ hw hmin hmax
        · contradiction
      · contradiction

theorem keeps_afterFitted (s : State) (old) : Keeps s (s.afterFitted old) := by
  unfold State.afterFitted
  split
  · exact (keeps_changeConv s _ _ _).trans (keeps_setMiss _ _ _)
  · exact Keeps.refl s

/-- New limits stored and applied (R30): from a state within its limits to one within the new ones. -/
theorem safe_storeLimits (s : State) (t : Settings)
    (hmin : s.TargetsInLimits → -30000 ≤ t.plantMin ∧ t.plantMin ≤ 0)
    (hmax : s.TargetsInLimits → 0 ≤ t.plantMax ∧ t.plantMax ≤ 30000) :
    Safe s (((s.setSettings t).afterFitted s.settings).afterLimits s.settings) ∧
      (((s.setSettings t).afterFitted s.settings).afterLimits s.settings).settings = t := by
  have h0 : ∀ w : State, w = s.setSettings t → (s.QueuesBounded → w.QueuesBounded) ∧
      (s.CountersBounded → w.CountersBounded) ∧ (s.LinksBusy → w.LinksBusy) ∧
      (s.PlansOnlyInRemote → w.PlansOnlyInRemote) ∧ w.pending = s.pending := by
    rintro w rfl
    exact ⟨fun h => ⟨h.1, h.2, h.3, h.4, h.5, h.6⟩, fun h => ⟨h.1, h.2, h.3, h.4, h.5, h.6, h.7⟩,
      fun h => ⟨h.1, h.2⟩, fun h => ⟨h.1, h.2, h.3, h.4, h.5⟩, rfl⟩
  have hb := h0 _ rfl
  have kf := keeps_afterFitted (s.setSettings t) s.settings
  have ht : ((s.setSettings t).afterFitted s.settings).target = s.target := by
    unfold State.afterFitted
    split
    · exact frame_setMiss _ _ _ .target (by decide)
    · rfl
  have hset : ((s.setSettings t).afterFitted s.settings).settings = t := kf.settings
  generalize hw : (s.setSettings t).afterFitted s.settings = w at kf ht hset ⊢
  unfold State.afterLimits
  rw [hset]
  by_cases hc : s.settings.plantMin ≠ t.plantMin ∨ s.settings.plantMax ≠ t.plantMax
  · rw [if_pos hc]
    unfold State.applyLimits
    simp only
    generalize hx : w.setTarget { w.target with
        tf := clampInt w.settings.plantMin w.settings.plantMax w.target.tf
        te := clampInt w.settings.plantMin w.settings.plantMax w.target.te
        rampNext := if clampInt w.settings.plantMin w.settings.plantMax w.target.te
            = clampInt w.settings.plantMin w.settings.plantMax w.target.tf then none
          else w.target.rampNext } = x
    have hxs : Safe s x ∧ x.settings = t := by
      subst hx
      have hr : ∀ y : TargetRamp, y.setting = w.target.setting → y.estopLatch = w.target.estopLatch →
          (w.setTarget y).isRemote = w.isRemote := fun y h1 h2 => by
        simp [State.isRemote, State.authority, h1, h2]
      refine ⟨⟨fun h => ?_, fun h => ?_, fun h => ?_, fun h => ?_, fun h => ?_, ?_⟩, hset⟩
      · have := kf.queues (hb.1 h)
        exact ⟨this.1, this.2, this.3, this.4, this.5, this.6⟩
      · have := kf.counters (hb.2.1 h)
        exact ⟨this.1, this.2, this.3, this.4, this.5, this.6, this.7⟩
      · have h1 := hmin h
        have h2 := hmax h
        have hle : t.plantMin ≤ t.plantMax := by omega
        rw [← hset] at h1 h2 hle
        exact ⟨h1, h2, clampInt_mem _ _ _ hle, clampInt_mem _ _ _ hle⟩
      · have := kf.links (hb.2.2.1 h)
        exact ⟨this.1, this.2⟩
      · have p := kf.plans (hb.2.2.2.1 h)
        have e := hr { w.target with
          tf := clampInt w.settings.plantMin w.settings.plantMax w.target.tf
          te := clampInt w.settings.plantMin w.settings.plantMax w.target.te
          rampNext := if clampInt w.settings.plantMin w.settings.plantMax w.target.te
              = clampInt w.settings.plantMin w.settings.plantMax w.target.tf then none
            else w.target.rampNext } rfl rfl
        refine ⟨fun a b => p.1 a (e ▸ b), fun a b => p.2 a (e ▸ b), fun a b => p.3 a (e ▸ b),
          fun a b => p.4 a (e ▸ b), fun a b => ?_⟩
        rw [e]
        simp only [State.setTarget_target] at b ⊢
        split at b
        · exact absurd rfl b
        · rename_i hne
          have := p.5 a b
          exact ⟨this.1, this.2.1, this.2.2.1, hne⟩
      · exact kf.pending.trans hb.2.2.2.2
    split
    · have k := keeps_fullTrigger x .target
      exact ⟨hxs.1.trans k.safe, k.settings.trans hxs.2⟩
    · split
      · have k := keeps_loadTrigger x
        exact ⟨hxs.1.trans k.safe, k.settings.trans hxs.2⟩
      · exact hxs
  · rw [if_neg hc]
    simp only [ne_eq, not_or, not_not] at hc
    refine ⟨⟨fun h => kf.queues (hb.1 h), fun h => kf.counters (hb.2.1 h), fun h => ?_,
      fun h => kf.links (hb.2.2.1 h), fun h => kf.plans (hb.2.2.2.1 h),
      kf.pending.trans hb.2.2.2.2⟩, hset⟩
    exact ⟨by rw [hset, ← hc.1]; exact h.1, by rw [hset, ← hc.2]; exact h.2,
      by rw [hset, ht, ← hc.1, ← hc.2]; exact h.3, by rw [hset, ht, ← hc.1, ← hc.2]; exact h.4⟩

theorem keeps_afterOrderTimeout (s : State) (old) : Keeps s (s.afterOrderTimeout old) := by
  unfold State.afterOrderTimeout
  split
  · exact keeps_staleOrderNow s
  · exact Keeps.refl s

theorem keeps_afterDesignHead (s : State) (old) : Keeps s (s.afterDesignHead old) := by
  unfold State.afterDesignHead
  split
  · exact (keeps_setTable s _).trans (keeps_handHead _)
  · exact Keeps.refl s

theorem keeps_afterHeadStaleTime (s : State) (old) : Keeps s (s.afterHeadStaleTime old) := by
  unfold State.afterHeadStaleTime
  split
  · exact keeps_staleHeadNow s
  · exact Keeps.refl s

theorem keeps_afterResolvePeriod (s : State) (b) : Keeps s (s.afterResolvePeriod b) := by
  unfold State.afterResolvePeriod
  split
  · rename_i h
    simp only [Bool.and_eq_true] at h
    have k : ∀ n, Keeps s (s.setSolver { s.solver with resolveNext := n }) :=
      fun n => keeps_setSolver_remote s _ h.2 id id
    split
    · exact k _
    · split
      · exact k _
      · split
        · exact (k _).trans (keeps_fullTrigger _ _)
        · exact k _
  · exact Keeps.refl s

theorem keeps_afterStatusInterval (s : State) (old) : Keeps s (s.afterStatusInterval old) := by
  unfold State.afterStatusInterval
  split
  · exact keeps_setPort s _ rfl rfl rfl id
  · exact Keeps.refl s

theorem keeps_afterSenses (s : State) (old) : Keeps s (s.afterSenses old) :=
  keeps_foldl _ (fun s u => by
    split
    · exact keeps_assertTrip s u
    · exact Keeps.refl s) _ s

theorem safe_writeSettings (s : State) (r) : Safe s (s.writeSettings r).1 := by
  unfold State.writeSettings
  split
  · exact (keeps_detectAt s _ _).safe
  · split
    · exact (keeps_detectAt s _ _).safe
    · rename_i t ht
      refine Safe.trans ?_ (keeps_walkAfter _ _).safe
      have h := safe_storeLimits s t (fun h => (readSettings_limits _ _ _ ht h.1 h.2).1)
        (fun h => (readSettings_limits _ _ _ ht h.1 h.2).2)
      exact h.1.trans (((((((keeps_afterOrderTimeout _ _).trans (keeps_afterDesignHead _ _)).trans
        (keeps_afterHeadStaleTime _ _)).trans (keeps_afterResolvePeriod _ _)).trans
        (keeps_afterStatusInterval _ _)).trans (keeps_afterSenses _ _)).safe)

/-! ## Management (chapter 9) -/

theorem keeps_refuseWrite (s : State) (n r) : Keeps s (s.refuseWrite n r).1 := keeps_detectAt s _ _

theorem keeps_storeUnit (s : State) (u r) : Keeps s (s.storeUnit u r) := keeps_setTable s _

theorem keeps_clearUnit (s : State) (u) : Keeps s (s.clearUnit u).1 := by
  unfold State.clearUnit
  split
  · exact Keeps.refl s
  · split
    · exact (((keeps_storeUnit s u none).trans (keeps_withdrawEntry _ u)).trans
        (keeps_setMiss _ _ _)).trans (keeps_fullTrigger _ _)
    · exact keeps_refuseWrite s _ _

theorem keeps_writePresent (s : State) (u r) : Keeps s (s.writePresent u r) := by
  unfold State.writePresent
  split
  · exact ((keeps_storeUnit s u _).trans (keeps_setMiss _ _ _)).trans (keeps_fullTrigger _ _)
  · exact (keeps_storeUnit s u _).trans (keeps_repin _ _ _ _)

theorem keeps_writeUnit (s : State) (u r) : Keeps s (s.writeUnit u r).1 := by
  unfold State.writeUnit
  split
  · exact keeps_refuseWrite s _ _
  · exact keeps_clearUnit s u
  · exact keeps_writePresent s u _

theorem keeps_writeGroup (s : State) (g r) : Keeps s (s.writeGroup g r).1 := by
  unfold State.writeGroup
  split
  · exact keeps_setTable s _
  · exact keeps_refuseWrite s _ _

theorem keeps_writeMerit (s : State) (w r) : Keeps s (s.writeMerit w r).1 := by
  unfold State.writeMerit
  split
  · exact keeps_setTable s _
  · exact keeps_setTable s _
  · exact keeps_refuseWrite s _ _

theorem keeps_writeClass (s : State) (c r) : Keeps s (s.writeClass c r).1 := by
  unfold State.writeClass
  split
  · exact keeps_setClasses s _
  · exact keeps_refuseWrite s _ _

theorem keeps_writeSeverity (s : State) (i r) : Keeps s (s.writeSeverity i r).1 := by
  unfold State.writeSeverity
  split
  · exact keeps_setErrors s _ id id id id
  · exact keeps_refuseWrite s _ _

theorem keeps_writeNotice (s : State) (r) : Keeps s (s.writeNotice r).1 := by
  unfold State.writeNotice
  split
  · exact keeps_setErrors s _ id id id id
  · exact keeps_refuseWrite s _ _

theorem safe_writeObject (s : State) (o i r) : Safe s (s.writeObject o i r).1 := by
  unfold State.writeObject
  split
  · exact safe_writeSettings s r
  · split
    · exact (keeps_writeUnit s _ r).safe
    · exact Safe.refl s
  · split
    · exact (keeps_writeGroup s _ r).safe
    · exact Safe.refl s
  · exact (keeps_writeMerit s _ r).safe
  · exact (keeps_writeMerit s _ r).safe
  · split
    · exact (keeps_writeClass s _ r).safe
    · exact Safe.refl s
  · split
    · exact (keeps_writeSeverity s _ r).safe
    · exact Safe.refl s
  · exact (keeps_writeNotice s r).safe
  · exact Safe.refl s

theorem keeps_clearCounters (s : State) : Keeps s s.clearCounters := by
  refine Keeps.trans ?_ (keeps_countTraffic _ _ (fun _ _ =>
    ⟨Nat.zero_le _, Nat.zero_le _, Nat.zero_le _, Nat.zero_le _, Nat.zero_le _, Nat.zero_le _⟩))
  exact keeps_setErrors s { s.errors with counters := Vector.replicate 18 0, orderSource := 0 }
    (fun _ i => by simp [Vector.get_eq_getElem]) (fun _ => Nat.zero_le _) id (fun _ _ => Nat.zero_le _)

theorem keeps_clearLineFlag (s : State) (n) : Keeps s (s.clearLineFlag n).1 := by
  unfold State.clearLineFlag
  split
  · unfold State.clearTripFlag
    simp only
    split
    · exact Keeps.refl s
    · exact keeps_setInputs s _ rfl
  · split
    · exact keeps_setInputs s _ rfl
    · split
      · simp only
        split
        · exact Keeps.refl s
        · exact keeps_setInputs s _ rfl
      · exact Keeps.refl s

theorem keeps_clearObject (s : State) (o i) : Keeps s (s.clearObject o i).1 := by
  unfold State.clearObject
  split
  · exact keeps_clearCounters s
  · exact keeps_setErrors s _ id id id id
  · exact keeps_setErrors s _ id id id id
  · exact keeps_clearLineFlag s i
  · exact Keeps.refl s

theorem keeps_solveNow (s : State) : Keeps s s.solveNow.1 := by
  unfold State.solveNow
  split
  · exact keeps_fullTrigger s _
  · exact Keeps.refl s

theorem keeps_clearUnitFault (s : State) (u) : Keeps s (s.clearUnitFault u).1 := by
  unfold State.clearUnitFault
  simp only
  split
  · exact Keeps.refl s
  · split
    · exact Keeps.refl s
    · split
      · exact Keeps.refl s
      · exact keeps_changeTracker s u _ _ _

theorem keeps_clearConverter (s : State) (c) : Keeps s (s.clearConverter c).1 := by
  unfold State.clearConverter
  simp only
  split
  · exact Keeps.refl s
  · split
    · exact (keeps_changeConv s c _ _).trans (keeps_walkAfter _ _)
    · exact Keeps.refl s

theorem keeps_stepScan (s : State) : Keeps s s.stepScan.1 := by
  unfold State.stepScan
  split
  · split
    · exact Keeps.refl s
    · split
      · exact Keeps.refl s
      · exact keeps_lineFree s _ rfl rfl
  · exact Keeps.refl s

theorem safe_whenBare (r) (s : State) (x : State × Reply) (h : Safe s x.1) :
    Safe s (whenBare r s x).1 := by
  unfold whenBare
  split
  · exact h
  · exact Safe.refl s

theorem safe_act (s : State) (a n r) : Safe s (s.act a n r).1.1 := by
  unfold State.act
  split
  · exact safe_whenBare _ s _ (keeps_solveNow s).safe
  · split
    · exact safe_whenBare _ s _ (keeps_clearUnitFault s _).safe
    · exact Safe.refl s
  · split
    · split
      · exact Safe.refl s
      · exact safe_whenBare _ s _ (keeps_clearConverter s _).safe
    · exact Safe.refl s
  · exact safe_whenBare _ s _ (safe_clearEstop s)
  · split
    · exact safe_whenBare _ s _ (safe_setAuthority s _)
    · exact safe_whenBare _ s _ (safe_setAuthority s _)
    · exact Safe.refl s
  · exact safe_whenBare _ s _ (keeps_restartScan s).safe
  · exact safe_whenBare _ s _ (keeps_stopScan s).safe
  · exact safe_whenBare _ s _ (keeps_stepScan s).safe
  · split
    · exact (keeps_configScan s _).safe
    · exact Safe.refl s
  · exact safe_whenBare _ s _ (Safe.refl s)
  · exact safe_whenBare _ s _ (Safe.refl s)
  · exact safe_whenBare _ s _ (Safe.refl s)
  · exact Safe.refl s

theorem safe_perform (s : State) (k o i r) : Safe s (s.perform k o i r).1.1 := by
  unfold State.perform
  split
  · exact Safe.refl s
  · exact safe_writeObject s o i r
  · exact (keeps_clearObject s o i).safe
  · exact safe_act s o i r
  · exact Safe.refl s

end Sys2Proof.Machine
end

