-- ==== Sys2Proof/Laws/ExecSafe.lean ====
section
/-! SUPPORT. What a request with its reply, the classifier, the receptions and the timers keep, and the
shapes in which the commands call them: the invariants of Sys2Proof/Safety.lean and the queue of commands. -/
namespace Sys2Proof.Machine

/-! ## The responder (R170, R171) -/

/-- A request that begins a reset has done nothing else. -/
theorem perform_reset (s : State) (k o i r) (h : (s.perform k o i r).2 ≠ .nothing) :
    (s.perform k o i r).1.1 = s := by
  unfold State.perform State.act at *
  split at h
  all_goals first
    | exact absurd rfl h
    | skip
  split at h
  all_goals first
    | exact absurd rfl h
    | (unfold whenBare; split <;> rfl)
    | skip
  all_goals
    split at h
    all_goals first
      | exact absurd rfl h
      | skip
  all_goals
    split at h
    all_goals exact absurd rfl h

theorem safe_answer (s : State) (d n r a) (hp : a = .engineReset → s.processing ≠ .deviceReset) :
    Safe s (s.answer d n r a) := by
  unfold State.answer
  simp only
  split
  · exact (keeps_offerOwn s _ (fun k => by cases k)).safe
  · exact ((keeps_offerOwn s _ (fun k => by cases k)).trans (keeps_beginLineReset _)).safe
  · have k := keeps_offerOwn s (s.replyFrame d n r) (fun k => by cases k)
    exact k.safe.trans (safe_beginEngineReset _ (by rw [k.processing]; exact hp rfl))
  · exact ((keeps_offerResetReply s _ (fun k => by cases k)).trans (keeps_setResetAwaiting _ _)).safe

theorem safe_manage (s : State) (src p) (hp : s.processing ≠ .deviceReset) :
    Safe s (s.manage src p) := by
  unfold State.manage
  simp only
  split
  · exact safe_answer s _ _ _ _ (by simp)
  · split
    · refine (safe_perform s _ _ _ _).trans (safe_answer _ _ _ _ _ (fun h => ?_))
      rw [perform_reset s _ _ _ _ (by rw [h]; simp)]
      exact hp
    · exact safe_answer s _ _ _ _ (by simp)

/-! ## The classifier (R155 to R162) -/

theorem keeps_unknownKind (s : State) (p f) : Keeps s (s.unknownKind p f) := keeps_detectAt s _ _

theorem keeps_refuseFrame (s : State) (p f) : Keeps s (s.refuseFrame p f) := keeps_detectAt s _ _

theorem keeps_consumeTarget (s : State) (p f) : Keeps s (s.consumeTarget p f) := by
  unfold State.consumeTarget
  split
  · exact keeps_judgeOrder s _ _ _ (fun h => keeps_acceptTarget s _ _ _ h)
  · exact keeps_unknownKind s p f

theorem keeps_consumeHold (s : State) (p f) : Keeps s (s.consumeHold p f) := by
  unfold State.consumeHold
  split
  · exact keeps_judgeOrder s _ _ _ (fun h => keeps_acceptHold s _ h)
  · exact keeps_unknownKind s p f

theorem keeps_consumeAdmit (s : State) (p f) : Keeps s (s.consumeAdmit p f) := by
  unfold State.consumeAdmit
  split
  · exact keeps_judgeOrder s _ _ _ (fun _ => keeps_acceptAdmit s _ _)
  · exact keeps_unknownKind s p f

theorem keeps_consumeHead (s : State) (p f) : Keeps s (s.consumeHead p f) := by
  unfold State.consumeHead
  split
  · exact keeps_takeHead s _ _
  · exact keeps_unknownKind s p f

theorem safe_consumeOwned (s : State) (p f) (o : State → State) (ho : Safe s (o s)) :
    Safe s (s.consumeOwned p f o) := by
  unfold State.consumeOwned
  split
  · exact (keeps_consumeTarget s p f).safe
  · exact (keeps_consumeHold s p f).safe
  · exact (keeps_consumeAdmit s p f).safe
  · exact (keeps_consumeHead s p f).safe
  · exact ho

theorem safe_consumeFrame (s : State) (p f) : Safe s (s.consumeFrame p f) :=
  safe_consumeOwned s p f _ (by
    split
    · exact (keeps_refuseFrame s p f).safe
    · exact (keeps_unknownKind s p f).safe)

theorem keeps_forwardFrame (s : State) (p f) : Keeps s (s.forwardFrame p f) := by
  unfold State.forwardFrame
  split
  · exact keeps_offerForwardDown s f
  · exact keeps_offerForwardUp s f

theorem safe_actOn (s : State) (p f a) : Safe s (s.actOn p f a) := by
  unfold State.actOn
  split
  · exact safe_consumeFrame s p f
  · exact (keeps_forwardFrame s p f).safe
  · exact (safe_consumeFrame s p f).trans (keeps_forwardFrame _ p f).safe
  · exact (keeps_countTraffic s (fun t => { t with dropped := satInc t.dropped })
      (fun _ b => ⟨b.1, b.2, b.3, b.4, satInc_le _ b.5, b.6⟩)).safe

theorem safe_takeOwn (s : State) (p f) (hp : s.processing ≠ .deviceReset) :
    Safe s (s.takeOwn p f) := by
  unfold State.takeOwn
  split
  · exact (keeps_refuseFrame s _ f).safe
  · refine safe_consumeOwned s _ f _ ?_
    split
    · exact safe_manage s _ _ hp
    · exact (keeps_unknownKind s _ f).safe

theorem safe_takeBroadcast (s : State) (p f) : Safe s (s.takeBroadcast p f) :=
  (safe_consumeOwned s p f id (Safe.refl s)).trans (keeps_forwardFrame _ p f).safe

theorem keeps_consumeUnitReport (s : State) (u f) : Keeps s (s.consumeUnitReport u f) := by
  unfold State.consumeUnitReport
  split
  · exact (keeps_takeReport s u _).trans (keeps_walkAfter _ _)
  · exact keeps_unknownKind s _ f

theorem keeps_consumeConvReport (s : State) (c f) : Keeps s (s.consumeConvReport c f) := by
  unfold State.consumeConvReport
  split
  · exact (keeps_takeConvReport s c _).trans (keeps_walkAfter _ _)
  · exact keeps_unknownKind s _ f

theorem safe_classify (s : State) (p f) (hp : s.processing ≠ .deviceReset) :
    Safe s (s.classify p f) := by
  have hc : Keeps s (s.countTraffic (fun t => t.received p)) :=
    keeps_countTraffic s _ (fun t b => by
      cases p
      · exact ⟨satInc_le _ b.1, b.2, b.3, b.4, b.5, b.6⟩
      · exact ⟨b.1, satInc_le _ b.2, b.3, b.4, b.5, b.6⟩)
  unfold State.classify
  simp only
  split
  · exact (hc.trans (keeps_consumeUnitReport _ _ f)).safe
  · exact (hc.trans (keeps_consumeConvReport _ _ f)).safe
  · refine hc.safe.trans ?_
    unfold State.classifyByDest
    split
    · exact safe_takeOwn _ p f hp
    · split
      · exact safe_takeBroadcast _ p f
      · exact safe_actOn _ p f _

/-! ## Receipt (R137 to R141, R154) -/

theorem keeps_badReceptionU (s : State) : Keeps s s.badReceptionU := keeps_detectAt s _ _

theorem safe_receiveBytesU (s : State) (b) (hp : s.processing ≠ .deviceReset) :
    Safe s (s.receiveBytesU b) := by
  unfold State.receiveBytesU
  split
  · exact safe_classify s _ _ hp
  · exact (keeps_badReceptionU s).safe

theorem safe_receiveFrameU (s : State) (f) (hp : s.processing ≠ .deviceReset) :
    Safe s (s.receiveFrameU f) := by
  unfold State.receiveFrameU
  split
  · exact safe_classify s _ f hp
  · exact (keeps_badReceptionU s).safe

theorem safe_handReply (s : State) (a f) (hp : s.processing ≠ .deviceReset) :
    Safe s (s.handReply a f) := by
  have h : Keeps s (if s.tracked a then s.setMiss a 0 else s) := by
    split
    · exact keeps_setMiss s _ _
    · exact Keeps.refl s
  unfold State.handReply
  simp only
  split
  · exact h.safe
  · exact h.safe.trans (safe_classify _ _ f (by rw [h.processing]; exact hp))

theorem keeps_afterInvalid (s : State) : Keeps s s.afterInvalid := by
  unfold State.afterInvalid
  split
  · exact keeps_missWindow s _ _
  · exact Keeps.refl s

theorem safe_judgeReply (s : State) (a adv r) (hp : s.processing ≠ .deviceReset) :
    Safe s (s.judgeReply a adv r) := by
  have bad : Safe s (s.detectAt .dFrameCheck a).afterInvalid :=
    ((keeps_detectAt s _ _).trans (keeps_afterInvalid _)).safe
  unfold State.judgeReply
  split
  · split
    · exact (safe_handReply s a _ hp).trans (keeps_closeWindow _ _ _).safe
    · exact bad
  · exact bad

theorem safe_receiveD (s : State) (r) (hp : s.processing ≠ .deviceReset) : Safe s (s.receiveD r) := by
  have h := keeps_endReception s
  unfold State.receiveD
  simp only
  split
  · exact (h.trans (keeps_afterInvalid _)).safe
  · exact h.safe.trans (safe_judgeReply _ _ _ r (by rw [h.processing]; exact hp))
  · exact ((h.trans (keeps_detectAt _ _ _)).trans (keeps_afterInvalid _)).safe

theorem safe_lineReception (s : State) (r) : Safe s (s.lineReception r) := by
  unfold State.lineReception
  split
  · exact (keeps_endReception s).safe
  · rename_i h
    exact safe_receiveD s r h

theorem safe_cutAtLimit (s : State) : Safe s s.cutAtLimit := by
  unfold State.cutAtLimit
  split
  · exact safe_lineReception s none
  · exact Safe.refl s

theorem safe_dispatchSent (s : State) : Safe s s.dispatchSent := by
  unfold State.dispatchSent
  split
  · split
    · exact safe_beginDeviceReset s
    · exact (keeps_txChoose_of s { s.port with tx := none } id id id id).safe
  · exact Safe.refl s

/-- A refreshed frame is a STATUS frame as it was (R166). -/
theorem OwnFrame.refresh_isStatus (x : OwnFrame) {f : Frame} (hf : f.kind = kindCode .status) :
    (x.refresh f).isStatus = x.isStatus := by
  unfold OwnFrame.refresh
  split
  · rename_i h
    rw [h]
    simp [OwnFrame.isStatus, hf]
  · rfl

theorem keeps_statusExpiry (s : State) : Keeps s s.statusExpiry := by
  have h : ∀ n, Keeps s (s.setPort { s.port with
      statusLast := s.port.statusNext, statusNext := n }) := fun n => keeps_setPort s _ rfl rfl rfl id
  unfold State.statusExpiry
  simp only
  split
  · exact h _
  · split
    · refine (h (s.port.statusNext + s.settings.statusInterval)).trans
        (Keeps.trans ?_ (keeps_countTraffic _ _
          (fun _ b => ⟨b.1, b.2, b.3, b.4, b.5, satInc_le _ b.6⟩)))
      exact keeps_setPort _ _ (by
        simp only [List.map_map]
        exact List.map_congr_left (fun x _ => x.refresh_isStatus rfl)) rfl rfl id
    · rename_i hn
      exact (h _).trans (keeps_offerOwn _ _ (fun _ => by simpa using hn))

theorem keeps_resolveExpiry (s : State) (e) (h : s.solver.resolveNext ≠ none) :
    Keeps s (s.resolveExpiry e) := by
  refine Keeps.trans ?_ (keeps_fullTrigger _ _)
  exact keeps_setSolver s _ id id (fun _ => ⟨id, id, fun k => absurd k h⟩)

theorem keeps_tick (s : State) : Keeps s s.tick :=
  keeps_setErrors s _ id id (fun h => by
    simp only
    split
    · rename_i k
      exact k
    · exact h) id

/-! ## The commands -/

theorem safe_whenRunning (s : State) (f : State → State)
    (hf : s.processing ≠ .deviceReset → Safe s (f s)) : Safe s (s.whenRunning f) := by
  unfold State.whenRunning
  split
  · exact Safe.refl s
  · rename_i h
    exact hf h

theorem safe_receiveOn (s : State) (p f) : Safe s (s.receiveOn p f) := by
  unfold State.receiveOn
  split
  · exact safe_whenRunning s _ (safe_receiveFrameU s f)
  · exact safe_lineReception s _

theorem safe_request (s : State) (src req k o i r) (hp : s.processing ≠ .deviceReset) :
    Safe s (s.request src req k o i r) := safe_receiveFrameU s _ hp

theorem safe_ite (s t : State) (c : Prop) [Decidable c] (h : c → Safe s t) :
    Safe s (if c then t else s) := by
  split
  · exact h ‹_›
  · exact Safe.refl s

theorem safe_request_when (s : State) (src req k o i r) :
    Safe s (s.whenRunning (fun x => x.request src req k o i r)) :=
  safe_whenRunning s _ (safe_request s src req k o i r)

theorem safe_rampDue (s : State) : Safe s (match s.target.rampNext with
    | some e => if e ≤ s.now then s.takeRampStep e else s
    | none => s) := by
  split
  · rename_i e h
    exact safe_ite s _ _ (fun _ => (keeps_takeRampStep s e (by simp [h])).safe)
  · exact Safe.refl s

theorem safe_resolveDue (s : State) : Safe s (match s.solver.resolveNext with
    | some e => if e ≤ s.now then s.resolveExpiry e else s
    | none => s) := by
  split
  · rename_i e h
    exact safe_ite s _ _ (fun _ => (keeps_resolveExpiry s e (by simp [h])).safe)
  · exact Safe.refl s

theorem safe_completions (s : State) :
    Safe s (match s.solver.phase with
      | .full n => if s.isRemote then s.completeFull n else s
      | _ => s) ∧
    Safe s (match s.solver.phase with
      | .load n => if s.isRemote then s.completeLoad n else s
      | _ => s) := by
  constructor <;> split
  · exact safe_ite s _ _ (fun h => (keeps_completeFull s _ h).safe)
  · exact Safe.refl s
  · exact safe_ite s _ _ (fun h => (keeps_completeLoad s _ h).safe)
  · exact Safe.refl s

theorem safe_walk (s t : State) (h : Keeps s t) : Safe s (State.walkAfter s t) :=
  (h.trans (keeps_walkAfter s t)).safe

/-- A level or the pin changes and the local/remote line keeps its level. -/
theorem safe_setLevel (s : State) (x : Inputs) (hl : x.localLevel = s.inputs.localLevel) :
    Safe s (s.setInputs x) := (keeps_setInputs s x hl).safe

end Sys2Proof.Machine
end

