-- ==== Sys2Proof/Laws/KeepsRecords.lean ====
section
/-! SUPPORT. The records of trackers, start queue and converters agree after every shared operation that moves
them (R81, R108, R116, R117). `Moved` and `Releases` say once what a change of a tracker and the release of
its converter do; the other lemmas compose them. -/
-- One theorem at a time: elaborated side by side, the ones that wait for another take a thread each.
set_option Elab.async false
namespace Sys2Proof.Machine

/-! ## What the agreement speaks of -/

/-- The blocks that the agreement speaks of. -/
abbrev recordBlocks : List Block := [.settings, .trackers, .queue, .convs]

/-- What an operation keeps when it leaves those blocks alone. -/
theorem agree_frame {l : List Block} {s t : State} (f : Unchanged l s t) (h : s.RecordsAgree)
    (hl : ∀ b ∈ recordBlocks, b ∉ l := by decide) : t.RecordsAgree := by
  have e1 : t.settings = s.settings := f .settings (hl _ (by decide))
  have e2 : t.trackers = s.trackers := f .trackers (hl _ (by decide))
  have e3 : t.queue = s.queue := f .queue (hl _ (by decide))
  have e4 : t.convs = s.convs := f .convs (hl _ (by decide))
  have et : ∀ u, t.tracker u = s.tracker u := fun u => by simp [State.tracker, e2]
  have ec : ∀ c, t.conv c = s.conv c := fun c => by simp [State.conv, e4]
  refine ⟨?_, ?_, ?_, ?_, ?_, ?_, ?_⟩
  · simpa only [et] using h.trackers
  · simpa only [ec] using h.convs
  · simpa only [e3, et] using h.starts
  · simpa only [ec] using h.first
  · simpa only [ec, e1] using h.fitted
  · simpa only [State.Spins, ec, et] using h.spun
  · simpa only [State.Spins, ec, et] using h.spinning

theorem spins_iff (s : State) (c : ConvId) (u : UnitId) :
    s.Spins c u ↔ (s.conv c).state.spinning = some u := by
  unfold State.Spins
  cases (s.conv c).state <;> simp [ConvState.spinning]

theorem spins_unique {s : State} {c : ConvId} {u v : UnitId} (h : s.Spins c u) (k : s.Spins c v) : u = v := by
  rw [spins_iff] at h k
  exact Option.some.inj (h.symm.trans k)

/-- The agreement without the two clauses on spinning up: what the latching of ESTOP keeps in its midst. -/
structure State.RecordsFit (s : State) : Prop where
  trackers : ∀ u, (s.tracker u).FitsItsState
  convs : ∀ c, (s.conv c).FitsItsState
  starts : ∀ e ∈ s.queue, (s.tracker e.unit).state = if e.kind = .changeover then .pump else .idle
  first : (s.conv 0).state ≠ .absent
  fitted : s.settings.fitted = 1 ∧ (s.conv 1).state = .absent
    ∨ s.settings.fitted = 2 ∧ s.settings.fittedUsed = true ∧ (s.conv 1).state ≠ .absent

theorem State.RecordsAgree.fit {s : State} (h : s.RecordsAgree) : s.RecordsFit :=
  ⟨h.1, h.2, h.3, h.4, h.5⟩

theorem State.RecordsFit.agree {s : State} (h : s.RecordsFit)
    (spun : ∀ c u, s.Spins c u → (s.tracker u).state = .pumpSpin ∧ (s.tracker u).granted = some c)
    (spinning : ∀ u, (s.tracker u).state = .pumpSpin → ∃ c, s.Spins c u) : s.RecordsAgree :=
  ⟨h.1, h.2, h.3, h.4, h.5, spun, spinning⟩

/-! ## Changes of a tracker -/

/-- A tracker enters a state and its start queue entry goes, whatever becomes of the converters. -/
structure Moved (s t : State) (u : UnitId) (st : TState) (g : Option ConvId) (cause : FaultCause) :
    Prop where
  settings : t.settings = s.settings
  enter : ∃ now r, t.tracker u = (s.tracker u).enter now r st g cause
  others : ∀ v, v ≠ u → t.tracker v = s.tracker v
  queue : t.queue = s.queue.filter (fun e => !e.lostOnLeaving u (s.tracker u).state)

theorem moveTracker_moved (s : State) (u st g cause) : Moved s (s.moveTracker u st g cause) u st g cause :=
  ⟨rfl, ⟨s.now, s.unit u, upd_get_self _ _ _⟩, fun _ h => upd_get_ne _ _ (Ne.symm h), rfl⟩

theorem Moved.after {l : List Block} {s t x : State} {u st g cause} (h : Moved s t u st g cause)
    (f : Unchanged l t x) (hl : ∀ b ∈ [Block.settings, .trackers, .queue], b ∉ l := by decide) :
    Moved s x u st g cause := by
  have e1 : x.settings = t.settings := f .settings (hl _ (by decide))
  have e2 : x.trackers = t.trackers := f .trackers (hl _ (by decide))
  have e3 : x.queue = t.queue := f .queue (hl _ (by decide))
  exact ⟨e1.trans h.1, by simpa only [State.tracker, e2] using h.2,
    by simpa only [State.tracker, e2] using h.3, e3.trans h.4⟩

theorem Moved.before {l : List Block} {s t x : State} {u st g cause} (f : Unchanged l s t)
    (h : Moved t x u st g cause) (hl : ∀ b ∈ [Block.settings, .trackers, .queue], b ∉ l := by decide) :
    Moved s x u st g cause := by
  have e1 : t.settings = s.settings := f .settings (hl _ (by decide))
  have e2 : t.trackers = s.trackers := f .trackers (hl _ (by decide))
  have e3 : t.queue = s.queue := f .queue (hl _ (by decide))
  have et : ∀ v, t.tracker v = s.tracker v := fun v => by simp [State.tracker, e2]
  refine ⟨h.1.trans e1, ?_, ?_, ?_⟩
  · simpa only [et] using h.2
  · simpa only [et] using h.3
  · simpa only [et, e3] using h.4

theorem changeTracker_moved (s : State) (u st g cause) :
    Moved s (s.changeTracker u st g cause) u st g cause := by
  have h := moveTracker_moved s u st g cause
  unfold State.changeTracker
  simp only
  split <;> split
  · exact (h.after (frame_fullTrigger _ _)).after (frame_fullTrigger _ _)
  · exact h.after (frame_fullTrigger _ _)
  · exact h.after (frame_fullTrigger _ _)
  · exact h

theorem changeTracker_convs (s : State) (u st g cause) :
    (s.changeTracker u st g cause).convs = s.convs :=
  frame_changeTracker s u st g cause .convs (by decide)

/-- What a tracker may enter: a converter with PUMP_SPIN alone, a cause with FAULTED alone, and STOPPING from
the six states of R81 alone. -/
structure Enterable (old st : TState) (g : Option ConvId) (cause : FaultCause) : Prop where
  granted : g ≠ none ↔ st = .pumpSpin
  cause : cause ≠ .noCause ↔ st = .faulted
  stopping : st = .stopping → old ∈ [TState.gen, .pump, .genStart, .pumpSpin, .pumpPrime, .changeover]

theorem enter_fits (t : Tracker) (now r st g cause) (h : Enterable t.state st g cause) :
    (t.enter now r st g cause).FitsItsState := by
  obtain ⟨h1, h2, h3⟩ := h
  have pins : ∀ o : Option Nat, entryPin o ≠ .noPin ↔ o ≠ none := by
    intro o
    rcases o with _ | _ | n <;> simp [entryPin]
  refine ⟨?_, ?_, ?_, h1, h2, ?_, ?_, ?_, ?_, ?_⟩
  · cases st <;> simp [Tracker.enter, TState.transitional]
  · cases st <;> simp [Tracker.enter]
  · intro o ho
    by_cases hs : st = .stopping
    · simp only [Tracker.enter, if_pos hs, Option.some.injEq] at ho
      exact ho ▸ h3 hs
    · simp [Tracker.enter, hs] at ho
  · cases st <;> simp [Tracker.enter]
  · cases st <;> simp [Tracker.enter, TState.steady]
  · cases st <;> simp [Tracker.enter]
  · simp only [Tracker.enter, pins]
    cases st <;> simp [pinTime]
  · cases st <;> simp [Tracker.enter, pinTime]

/-- A tracker that moved leaves no entry of its machine in the start queue. -/
theorem Moved.mem_queue {s t : State} {u st g cause} (m : Moved s t u st g cause) (h : s.RecordsFit)
    (e : Entry) (he : e ∈ t.queue) : e ∈ s.queue ∧ e.unit ≠ u := by
  rw [m.queue, List.mem_filter] at he
  refine ⟨he.1, fun hu => ?_⟩
  have hk := h.starts e he.1
  have hl := he.2
  rw [hu] at hk
  simp only [Entry.lostOnLeaving, hu, hk, beq_self_eq_true, Bool.true_and, Bool.not_eq_true'] at hl
  by_cases hc : e.kind = .changeover <;> simp [hc] at hl

theorem fit_of_move {s t : State} {u st g cause} (h : s.RecordsFit) (m : Moved s t u st g cause)
    (he : Enterable (s.tracker u).state st g cause) (hc : ∀ c, (t.conv c).FitsItsState)
    (ha : ∀ c, (t.conv c).state = .absent ↔ (s.conv c).state = .absent) : t.RecordsFit := by
  refine ⟨fun v => ?_, hc, fun e hq => ?_, ?_, ?_⟩
  · by_cases hv : v = u
    · obtain ⟨now, r, e⟩ := m.enter
      rw [hv, e]
      exact enter_fits _ _ _ _ _ _ he
    · rw [m.others v hv]
      exact h.trackers v
  · obtain ⟨hs, hu⟩ := m.mem_queue h e hq
    rw [m.others _ hu]
    exact h.starts e hs
  · rw [ne_eq, ha]
    exact h.first
  · rw [m.settings, ne_eq, ha]
    exact h.fitted

/-- From `s` to `t` the converter that spins a machine up, and it alone, is put into a state in which it spins
none up. -/
def Releases (s t : State) (u : UnitId) : Prop :=
  ∀ c, (s.Spins c u ∧ (t.conv c).FitsItsState ∧ (t.conv c).state ≠ .absent ∧ ∀ v, ¬ t.Spins c v)
    ∨ (¬ s.Spins c u ∧ t.conv c = s.conv c)

theorem Releases.after {l : List Block} {s t x : State} {u : UnitId} (h : Releases s t u)
    (f : Unchanged l t x) (hl : Block.convs ∉ l := by decide) : Releases s x u := by
  have e : x.convs = t.convs := f .convs hl
  simpa only [Releases, State.Spins, State.conv, e] using h

theorem Releases.before {l : List Block} {s t x : State} {u : UnitId} (f : Unchanged l s t)
    (h : Releases t x u) (hl : Block.convs ∉ l := by decide) : Releases s x u := by
  have e : t.convs = s.convs := f .convs hl
  simpa only [Releases, State.Spins, State.conv, e] using h

/-- A machine leaves its state for one that is not PUMP_SPIN, and the converter that spun it up lets it go. -/
theorem agree_of_move {s t : State} {u st cause} (h : s.RecordsAgree) (m : Moved s t u st none cause)
    (r : Releases s t u) (he : Enterable (s.tracker u).state st none cause) : t.RecordsAgree := by
  have hst : (t.tracker u).state ≠ .pumpSpin := by
    obtain ⟨now, q, e⟩ := m.enter
    rw [e]
    exact fun k => he.granted.2 k rfl
  refine State.RecordsFit.agree (fit_of_move h.fit m he (fun c => ?_) (fun c => ?_)) ?_ ?_
  · rcases r c with ⟨_, k, _⟩ | ⟨_, k⟩
    · exact k
    · rw [k]
      exact h.convs c
  · rcases r c with ⟨hs, _, k, _⟩ | ⟨_, k⟩
    · exact ⟨fun e => absurd e k, fun e => by rcases hs with hs | hs <;> simp [hs] at e⟩
    · rw [k]
  · intro c v hv
    rcases r c with ⟨_, _, _, k⟩ | ⟨hn, k⟩
    · exact absurd hv (k v)
    · have hs : s.Spins c v := by simpa only [State.Spins, k] using hv
      have hne : v ≠ u := fun e => hn (e ▸ hs)
      rw [m.others v hne]
      exact h.spun c v hs
  · intro v hv
    have hne : v ≠ u := fun e => hst (e ▸ hv)
    rw [m.others v hne] at hv
    obtain ⟨c, hs⟩ := h.spinning v hv
    refine ⟨c, ?_⟩
    rcases r c with ⟨k, _⟩ | ⟨_, k⟩
    · exact absurd (spins_unique hs k) hne
    · simpa only [State.Spins, k] using hs

/-- A converter record that is put into another state, in the form that `changeConv` gives it. -/
theorem changeConv_conv (s : State) (c st cause) : (s.changeConv c st cause).conv c = { s.conv c with
    state := st, entryTime := s.now
    deadline := if st.timed then some (s.now + s.settings.attachTimeout) else none
    cause := cause, rptValid := if st = .unknown ∨ st = .lost then false else (s.conv c).rptValid } :=
  upd_get_self _ _ _

theorem changeConv_ne (s : State) {c d : ConvId} (st cause) (h : d ≠ c) :
    (s.changeConv c st cause).conv d = s.conv d := upd_get_ne _ _ (Ne.symm h)

theorem changeConv_fits (s : State) (c : ConvId) (st : ConvState) (cause : ConvCause)
    (h : cause ≠ .noCause ↔ st = .faulted) : ((s.changeConv c st cause).conv c).FitsItsState := by
  rw [changeConv_conv]
  refine ⟨?_, h⟩
  cases st <;> simp [ConvState.timed]

/-- The one converter that spins a machine up is put into a state in which it spins none up. -/
theorem releases_changeConv {s w : State} (h : s.RecordsAgree) {c : ConvId} {u : UnitId} (hs : s.Spins c u)
    (hw : w.convs = s.convs) {st cause} (hc : cause ≠ .noCause ↔ st = .faulted) (hst : st ≠ .absent)
    (hn : st.spinning = none) : Releases s (w.changeConv c st cause) u := by
  have hwc : ∀ d, w.conv d = s.conv d := fun d => by simp [State.conv, hw]
  intro d
  by_cases hd : d = c
  · subst hd
    refine .inl ⟨hs, changeConv_fits w d st cause hc, ?_, fun v hv => ?_⟩
    · rw [changeConv_conv]
      exact hst
    · rw [spins_iff, changeConv_conv, hn] at hv
      simp at hv
  · refine .inr ⟨fun k => hd ?_, (changeConv_ne w st cause hd).trans (hwc d)⟩
    have h1 := (h.spun d u k).2
    rw [(h.spun c u hs).2] at h1
    exact (Option.some.inj h1).symm

/-- No converter spins the machine up, and the converters stay. -/
theorem releases_none {s t : State} {u : UnitId} (h : ∀ c, ¬ s.Spins c u) (ht : t.convs = s.convs) :
    Releases s t u := fun c => .inr ⟨h c, by simp [State.conv, ht]⟩

theorem not_spins_of_state {s : State} (h : s.RecordsAgree) {u : UnitId}
    (hu : (s.tracker u).state ≠ .pumpSpin) (c : ConvId) : ¬ s.Spins c u := fun k => hu (h.spun c u k).1

/-- The release of the converter granted to a machine that leaves PUMP_SPIN (R124). -/
theorem releases_detachGranted {s w : State} (h : s.RecordsAgree) (u : UnitId) (hw : w.convs = s.convs) :
    Releases s (w.detachGranted (s.tracker u)) u := by
  unfold State.detachGranted
  by_cases hu : (s.tracker u).state = .pumpSpin
  · obtain ⟨c, hc⟩ := h.spinning u hu
    have hg := (h.spun c u hc).2
    have hsp : (w.conv c).state.spinning = some u := by
      rw [← spins_iff]
      simpa only [State.Spins, State.conv, hw] using hc
    rw [if_pos hu, hg]
    simp only [State.detachConv, hsp]
    exact releases_changeConv h hc ((frame_placeOrder w _ .convs (by decide)).trans hw)
      (by simp) (by simp) rfl
  · rw [if_neg hu]
    exact releases_none (not_spins_of_state h hu) hw

/-! ## Changes of one field or record -/

/-- Trackers that keep their states, their grants and their fitting. -/
theorem agree_setTrackers {s : State} (x : Vector Tracker 8) (hst : ∀ u, (x.get u).state = (s.tracker u).state)
    (hg : ∀ u, (x.get u).granted = (s.tracker u).granted)
    (hf : ∀ u, (s.tracker u).FitsItsState → (x.get u).FitsItsState) (h : s.RecordsAgree) :
    (s.setTrackers x).RecordsAgree := by
  have e : ∀ u, (s.setTrackers x).tracker u = x.get u := fun _ => rfl
  refine ⟨fun u => hf u (h.trackers u), h.convs, fun q hq => ?_, h.first, h.fitted, fun c u k => ?_, fun u k => ?_⟩
  · rw [e, hst]
    exact h.starts q hq
  · rw [e, hst, hg]
    exact h.spun c u k
  · rw [e, hst] at k
    exact h.spinning u k

theorem agree_setTracker {s : State} (u : UnitId) (t : Tracker) (hst : t.state = (s.tracker u).state)
    (hg : t.granted = (s.tracker u).granted) (hf : (s.tracker u).FitsItsState → t.FitsItsState)
    (h : s.RecordsAgree) : (s.setTracker u t).RecordsAgree := by
  have e : ∀ v, v ≠ u → (upd s.trackers u t).get v = s.tracker v := fun v hv => upd_get_ne _ _ (Ne.symm hv)
  refine agree_setTrackers _ (fun v => ?_) (fun v => ?_) (fun v => ?_) h
  all_goals
    by_cases hv : v = u
    · subst hv
      simp only [upd_get_self]
      assumption
    · simp only [e v hv, imp_self]

/-- A start queue whose entries name machines in their states. -/
theorem agree_setQueue {s : State} (q : List Entry)
    (hq : ∀ e ∈ q, (s.tracker e.unit).state = if e.kind = .changeover then .pump else .idle)
    (h : s.RecordsAgree) : (s.setQueue q).RecordsAgree :=
  ⟨h.trackers, h.convs, hq, h.first, h.fitted, h.spun, h.spinning⟩

theorem agree_withdrawEntry {s : State} (u : UnitId) (h : s.RecordsAgree) : (s.withdrawEntry u).RecordsAgree :=
  agree_setQueue _ (fun e he => h.starts e (List.mem_filter.1 he).1) h

/-- A converter record that goes on spinning the same machines up, or none. -/
theorem agree_of_conv {s t : State} (c : ConvId) (f : Unchanged [.convs] s t)
    (hne : ∀ d, d ≠ c → t.conv d = s.conv d) (hf : (s.conv c).FitsItsState → (t.conv c).FitsItsState)
    (ha : (t.conv c).state = .absent ↔ (s.conv c).state = .absent)
    (hs : ∀ u, t.Spins c u ↔ s.Spins c u) (h : s.RecordsAgree) : t.RecordsAgree := by
  have e1 : t.settings = s.settings := f .settings (by decide)
  have e2 : t.trackers = s.trackers := f .trackers (by decide)
  have e3 : t.queue = s.queue := f .queue (by decide)
  have et : ∀ u, t.tracker u = s.tracker u := fun u => by simp [State.tracker, e2]
  have habs : ∀ d, (t.conv d).state = .absent ↔ (s.conv d).state = .absent := fun d => by
    by_cases hd : d = c
    · rw [hd]
      exact ha
    · rw [hne d hd]
  have hsp : ∀ d u, t.Spins d u ↔ s.Spins d u := fun d u => by
    by_cases hd : d = c
    · rw [hd]
      exact hs u
    · simp only [State.Spins, hne d hd]
  refine ⟨?_, fun d => ?_, ?_, ?_, ?_, ?_, ?_⟩
  · simpa only [et] using h.trackers
  · by_cases hd : d = c
    · rw [hd]
      exact hf (h.convs c)
    · rw [hne d hd]
      exact h.convs d
  · simpa only [e3, et] using h.starts
  · rw [ne_eq, habs]
    exact h.first
  · rw [e1, ne_eq, habs]
    exact h.fitted
  · simpa only [hsp, et] using h.spun
  · simpa only [hsp, et] using h.spinning

theorem agree_setConv {s : State} (c : ConvId) (r : ConvRecord) (hf : (s.conv c).FitsItsState → r.FitsItsState)
    (ha : r.state = .absent ↔ (s.conv c).state = .absent)
    (hs : r.state.spinning = (s.conv c).state.spinning) (h : s.RecordsAgree) :
    (s.setConv c r).RecordsAgree := by
  refine agree_of_conv c (frame_setConv s c r) (fun d hd => upd_get_ne _ _ (Ne.symm hd)) ?_ ?_ ?_ h
  · rw [State.setConv_conv]
    exact hf
  · rw [State.setConv_conv]
    exact ha
  · intro u
    rw [spins_iff, spins_iff, State.setConv_conv, hs]

theorem agree_changeConv {s : State} (c : ConvId) (st : ConvState) (cause : ConvCause)
    (hc : cause ≠ .noCause ↔ st = .faulted) (ha : st = .absent ↔ (s.conv c).state = .absent)
    (hs : st.spinning = (s.conv c).state.spinning) (h : s.RecordsAgree) :
    (s.changeConv c st cause).RecordsAgree := by
  refine agree_of_conv c (frame_changeConv s c st cause) (fun d hd => changeConv_ne s st cause hd)
    (fun _ => changeConv_fits s c st cause hc) ?_ (fun u => ?_) h
  · rw [changeConv_conv]
    exact ha
  · rw [spins_iff, spins_iff, changeConv_conv, hs]

/-! ## Machines that stop, fault, report or are lost (chapter 5) -/

/-- A change to a state that spins no converter, from one that has none granted (R85). -/
theorem agree_changeTracker {s : State} (u : UnitId) (st : TState) (cause : FaultCause)
    (hu : (s.tracker u).state ≠ .pumpSpin) (he : Enterable (s.tracker u).state st none cause)
    (h : s.RecordsAgree) : (s.changeTracker u st none cause).RecordsAgree :=
  agree_of_move h (changeTracker_moved s u st none cause)
    (releases_none (not_spins_of_state h hu) (changeTracker_convs s u st none cause)) he

/-- A change to any state but PUMP_SPIN, whose converter is released before it (R82, R88, R93). -/
theorem agree_releaseThenChange {s w : State} (h : s.RecordsAgree) (u : UnitId) (st : TState)
    (cause : FaultCause) {l : List Block} (f : Unchanged l s w) (he : Enterable (s.tracker u).state st none cause)
    (hl : ∀ b ∈ recordBlocks, b ∉ l := by decide) :
    ((w.detachGranted (s.tracker u)).changeTracker u st none cause).RecordsAgree := by
  refine agree_of_move h ?_ ?_ he
  · refine Moved.before (f.seq (frame_detachGranted w _)) (changeTracker_moved _ u st none cause)
      (fun b hb hm => ?_)
    rcases List.mem_append.1 hm with k | k
    · exact hl b (by revert hb; cases b <;> decide) k
    · revert hb k
      cases b <;> decide
  · exact (releases_detachGranted h u (f .convs (hl _ (by decide)))).after
      (frame_changeTracker _ u st none cause)

theorem agree_faultUnit {s : State} (u : UnitId) (cause : FaultCause) (kind : ErrorKind)
    (hc : cause ≠ .noCause) (h : s.RecordsAgree) : (s.faultUnit u cause kind).RecordsAgree := by
  refine agree_frame (frame_detectAt _ kind _) ?_
  refine agree_of_move h (u := u) (st := .faulted) (cause := cause) ?_ ?_ ⟨by simp, by simp [hc], by simp⟩
  · exact ((changeTracker_moved s u .faulted none cause).after (frame_queueStop _ u)).after
      (frame_detachGranted _ _)
  · refine releases_detachGranted h u ?_
    exact (frame_queueStop _ u .convs (by decide)).trans (changeTracker_convs s u .faulted none cause)

theorem agree_tripUnit {s : State} (u : UnitId) (h : s.RecordsAgree) : (s.tripUnit u).RecordsAgree := by
  unfold State.tripUnit
  split
  · exact agree_frame (frame_detectAt _ _ _) h
  · exact agree_faultUnit u _ _ (by simp) h

theorem agree_assertTrip {s : State} (u : UnitId) (h : s.RecordsAgree) : (s.assertTrip u).RecordsAgree :=
  agree_tripUnit u (agree_frame (frame_setInputs s _) h)

/-- What a report other than TRIPPED teaches is a state with neither converter nor cause (R86). -/
theorem relearn_enterable (old : TState) (r : UnitReport) (hr : r.mode ≠ .tripped) :
    Enterable old r.relearn none .noCause := by
  unfold UnitReport.relearn
  cases hm : r.mode <;> cases r.ready <;> first
    | exact absurd hm hr
    | exact ⟨by simp, by simp, by simp⟩

/-- The states that a report moves a tracker to have neither converter nor cause (R86 to R91). -/
theorem judgeReport_enterable (t : Tracker) (r : UnitReport) (hr : r.mode ≠ .tripped) (st : TState)
    (h : judgeReport t r = .enter st) : t.state ≠ .pumpSpin ∧ Enterable t.state st none .noCause := by
  have hl := relearn_enterable t.state r hr
  unfold judgeReport at h
  cases hs : t.state <;> simp only [hs] at h hl ⊢ <;> (repeat' split at h) <;> cases h <;> first
    | exact ⟨by simp, hl⟩
    | exact ⟨by simp, ⟨by simp, by simp, by simp⟩⟩

theorem judgeReport_release (t : Tracker) (r : UnitReport) (h : judgeReport t r = .release) :
    t.state = .pumpSpin := by
  unfold judgeReport at h
  cases hs : t.state <;> simp only [hs] at h <;> (repeat' split at h) <;> cases h
  rfl

theorem agree_applyReport {s : State} (u : UnitId) (r : UnitReport) (h : s.RecordsAgree) :
    (s.applyReport u r).RecordsAgree := by
  unfold State.applyReport
  simp only
  split
  · exact h
  · split
    · split <;> exact agree_faultUnit u _ _ (by simp) h
    · rename_i hm
      split
      · exact h
      · rename_i st hj
        obtain ⟨h1, h2⟩ := judgeReport_enterable _ r hm st hj
        split
        · exact agree_faultUnit u _ _ (by simp) h
        · exact agree_changeTracker u st .noCause h1 h2 h
      · exact agree_releaseThenChange h u .pumpPrime .noCause (Unchanged.refl [] s)
          ⟨by simp, by simp, by simp⟩
      · split
        · exact agree_faultUnit u _ _ (by simp) h
        · exact agree_releaseThenChange h u r.relearn .noCause (frame_detectAt s _ _)
            (relearn_enterable _ r hm)

theorem agree_takeReport {s : State} (u : UnitId) (r : UnitReport) (h : s.RecordsAgree) :
    (s.takeReport u r).RecordsAgree :=
  agree_applyReport u r (agree_setTracker u _ rfl rfl
    (fun k => ⟨k.1, k.2, k.3, k.4, k.5, k.6, k.7, k.8, k.9, k.10⟩) h)

theorem agree_endPin {s : State} (u : UnitId) (hp : (s.tracker u).pin ≠ .noPin) (h : s.RecordsAgree) :
    (s.endPin u).RecordsAgree := by
  refine agree_frame (frame_fullTrigger _ _) (agree_setTracker u _ rfl rfl (fun k => ?_) h)
  exact ⟨k.1, k.2, k.3, k.4, k.5, k.6, k.7, k.8,
    ⟨fun _ => k.9.1 hp, fun _ => by simp⟩, k.10⟩

theorem agree_loseUnit {s : State} (u : UnitId) (h : s.RecordsAgree) : (s.loseUnit u).RecordsAgree := by
  unfold State.loseUnit
  simp only
  split
  · exact h
  · exact agree_frame (frame_detectAt _ _ _) (agree_releaseThenChange h u .lost .noCause
      (Unchanged.refl [] s) ⟨by simp, by simp, by simp⟩)

theorem agree_repin {s : State} (u : UnitId) (old new : UnitRecord) (h : s.RecordsAgree) :
    (s.repin u old new).RecordsAgree := by
  unfold State.repin
  simp only
  split
  · rename_i hp
    split
    · have k1 : ∀ e : Time, (s.setTracker u { s.tracker u with pinEnd := some e }).RecordsAgree := fun e =>
        agree_setTracker u _ rfl rfl (fun k => ⟨k.1, k.2, k.3, k.4, k.5, k.6, k.7, k.8, k.9,
          ⟨fun _ => k.9.1 (by simp [hp.1]), fun _ => by simp⟩⟩) h
      split
      · exact agree_endPin u (by simp [hp.1]) (k1 _)
      · exact k1 _
    · exact h
  · exact h

/-! ## The admission walk (R110 to R114) -/

theorem walkScan_mem (s : State) (q : List Entry) : ∀ e ∈ (s.walkScan q).1,
    ∃ x ∈ q, x.unit = e.unit ∧ x.kind = e.kind := by
  induction q with
  | nil => intro e h; simp [State.walkScan] at h
  | cons x rest ih =>
    intro e h
    unfold State.walkScan at h
    split at h
    · exact ⟨e, h, rfl, rfl⟩
    · simp only [List.mem_cons] at h
      rcases h with h | h
      · exact ⟨x, by simp, by simp [h], by simp [h]⟩
      · obtain ⟨y, hy, k⟩ := ih e h
        exact ⟨y, by simp [hy], k⟩

theorem walkScan_found (s : State) (q : List Entry) (e : Entry) (h : (s.walkScan q).2 = some e) : e ∈ q := by
  induction q with
  | nil => simp [State.walkScan] at h
  | cons x rest ih =>
    unfold State.walkScan at h
    split at h
    · simp only [Option.some.injEq] at h
      simp [h]
    · exact List.mem_cons_of_mem _ (ih h)

/-- A pump start with a free converter: ATTACHING names the machine that enters PUMP_SPIN with it (R114). -/
theorem agree_grant {s w : State} (h : s.RecordsAgree) (u : UnitId) (c : ConvId)
    (hu : (s.tracker u).state ≠ .pumpSpin) (hc : (s.conv c).state = .free) {l : List Block}
    (f : Unchanged l s w) (hl : ∀ b ∈ recordBlocks, b ∉ l := by decide) :
    ((w.grant u c).moveTracker u .pumpSpin (some c) .noCause).RecordsAgree := by
  have hw := agree_frame f h hl
  have e2 : w.trackers = s.trackers := f .trackers (hl _ (by decide))
  have e4 : w.convs = s.convs := f .convs (hl _ (by decide))
  have eu : ∀ v, w.tracker v = s.tracker v := fun v => by simp [State.tracker, e2]
  have ec : ∀ d, w.conv d = s.conv d := fun d => by simp [State.conv, e4]
  have f1 := frame_placeOrder w (.conv c (.attach u))
  have ep : ∀ d, (w.placeOrder (.conv c (.attach u))).conv d = s.conv d := fun d => by
    rw [← ec]
    exact congrArg (·.get d) (f1 .convs (by decide))
  have he : Enterable (w.tracker u).state .pumpSpin (some c) .noCause := ⟨by simp, by simp, by simp⟩
  have m : Moved w ((w.grant u c).moveTracker u .pumpSpin (some c) .noCause) u .pumpSpin (some c) .noCause :=
    Moved.before (frame_grant w u c) (moveTracker_moved _ u _ _ _)
  generalize ht : (w.grant u c).moveTracker u .pumpSpin (some c) .noCause = t at m ⊢
  have tc : ∀ d, t.conv d = ((w.placeOrder (.conv c (.attach u))).changeConv c (.attaching u)).conv d :=
    fun d => by rw [← ht]; rfl
  have tcc : (t.conv c).state = .attaching u := by rw [tc, changeConv_conv]
  have tcn : ∀ d, d ≠ c → t.conv d = w.conv d := fun d hd => by rw [tc, changeConv_ne _ _ _ hd, ep, ec]
  have hwu : (w.tracker u).state ≠ .pumpSpin := by rw [eu]; exact hu
  have wcc : (w.conv c).state = .free := by rw [ec]; exact hc
  have hsp : ∀ d v, t.Spins d v ↔ (d = c ∧ v = u) ∨ (d ≠ c ∧ w.Spins d v) := by
    intro d v
    by_cases hd : d = c
    · subst hd
      simp [State.Spins, tcc, eq_comm]
    · simp [State.Spins, tcn d hd, hd]
  refine State.RecordsFit.agree (fit_of_move hw.fit m he (fun d => ?_) (fun d => ?_)) ?_ ?_
  · by_cases hd : d = c
    · rw [hd, tc]
      exact changeConv_fits _ c _ _ (by simp)
    · rw [tcn d hd]
      exact hw.convs d
  · by_cases hd : d = c
    · rw [hd, tcc, wcc]
      simp
    · rw [tcn d hd]
  · intro d v hv
    rcases (hsp d v).1 hv with ⟨rfl, rfl⟩ | ⟨hd, k⟩
    · obtain ⟨now, r, e⟩ := m.enter
      rw [e]
      exact ⟨rfl, rfl⟩
    · have hne : v ≠ u := fun e => hwu (e ▸ (hw.spun d v k).1)
      rw [m.others v hne]
      exact hw.spun d v k
  · intro v hv
    by_cases hvu : v = u
    · exact ⟨c, (hsp c v).2 (.inl ⟨rfl, hvu⟩)⟩
    · rw [m.others v hvu] at hv
      obtain ⟨d, k⟩ := hw.spinning v hv
      refine ⟨d, (hsp d v).2 (.inr ⟨fun e => ?_, k⟩)⟩
      rw [e] at k
      rcases k with k | k <;> rw [wcc] at k <;> cases k

theorem freeConv_free (s : State) (u : UnitId) (c : ConvId) (h : s.freeConv u = some c) :
    (s.conv c).state = .free := by
  unfold State.freeConv at h
  split at h
  · cases h
  · have := List.find?_some h
    simp only [Bool.and_eq_true, beq_iff_eq] at this
    exact this.2

theorem agree_startEntry {s : State} (e : Entry)
    (he : (s.tracker e.unit).state = if e.kind = .changeover then .pump else .idle) (h : s.RecordsAgree) :
    (s.startEntry e).RecordsAgree := by
  have hw := agree_withdrawEntry e.unit h
  have order : ∀ (o : Order) (st : TState), Enterable (s.tracker e.unit).state st none .noCause →
      (s.tracker e.unit).state ≠ .pumpSpin →
      (((s.withdrawEntry e.unit).placeOrder o).moveTracker e.unit st none .noCause).RecordsAgree := by
    intro o st k ku
    refine agree_of_move hw (Moved.before (frame_placeOrder _ o) (moveTracker_moved _ _ _ _ _))
      (releases_none (not_spins_of_state hw ku) ?_) k
    exact frame_placeOrder _ o .convs (by decide)
  unfold State.startEntry
  simp only
  split
  · rename_i hk
    simp only [hk] at he
    exact order _ _ ⟨by simp, by simp, by simp⟩ (by simp [he])
  · rename_i hk
    simp only [hk] at he
    exact order _ _ ⟨by simp, by simp, by simp⟩ (by simp [he])
  · rename_i hk
    simp only [hk] at he
    split
    · rename_i c hf
      exact agree_grant hw e.unit c (show (s.tracker e.unit).state ≠ .pumpSpin by simp [he])
        (freeConv_free s _ c hf) (Unchanged.refl [] _)
    · exact h

theorem agree_walkLoop (n : Nat) : ∀ s : State, s.RecordsAgree → (walkLoop n s).1.RecordsAgree := by
  induction n with
  | zero => exact fun _ h => h
  | succ n ih =>
    intro s h
    have hq : (s.setQueue (s.walkScan s.queue).1).RecordsAgree :=
      agree_setQueue _ (fun e he => by
        obtain ⟨x, hx, hu, hk⟩ := walkScan_mem s _ e he
        rw [← hu, ← hk]
        exact h.starts x hx) h
    unfold walkLoop
    simp only
    split
    · exact hq
    · rename_i e he
      exact ih _ (agree_startEntry e (h.starts e (walkScan_found s _ e he)) hq)

theorem agree_admissionWalk {s : State} (h : s.RecordsAgree) : s.admissionWalk.1.RecordsAgree := by
  unfold State.admissionWalk
  split
  · exact agree_walkLoop _ s h
  · exact h

theorem agree_runWalk {s : State} (h : s.RecordsAgree) : s.runWalk.RecordsAgree :=
  agree_frame (frame_fullTriggers _ _ _) (agree_admissionWalk h)

theorem agree_walkAfter (before : State) {s : State} (h : s.RecordsAgree) :
    (State.walkAfter before s).RecordsAgree := by
  unfold State.walkAfter
  split
  · exact agree_runWalk h
  · exact h

/-! ## Converters (chapter 6) -/

/-- A converter that leaves a state for one in which it spins no machine up, with the machine that it spun up
stopped (R126, R128, R130). -/
theorem agree_stopSpun {s t : State} (h : s.RecordsAgree) {c : ConvId} {u : UnitId} (hs : s.Spins c u)
    (m : Moved s t u .stopping none .noCause) (r : Releases s t u) : t.RecordsAgree := by
  refine agree_of_move h m r ⟨by simp, by simp, fun _ => ?_⟩
  rw [(h.spun c u hs).1]
  decide

theorem stopUnit_moved (s : State) (u : UnitId) : Moved s (s.stopUnit u) u .stopping none .noCause :=
  Moved.before (frame_queueStop s u) (changeTracker_moved _ u _ _ _)

theorem agree_faultConv {s : State} (c : ConvId) (cause : ConvCause) (hc : cause ≠ .noCause)
    (ha : (s.conv c).state ≠ .absent) (h : s.RecordsAgree) : (s.faultConv c cause).RecordsAgree := by
  have f := frame_detectAt (s.changeConv c .faulted cause) .converterFault (convStation c)
  unfold State.faultConv
  simp only
  split
  · rename_i u hu
    have hs := (spins_iff s c u).2 hu
    refine agree_stopSpun h hs ?_ ?_
    · exact Moved.before ((frame_changeConv s c _ _).seq f) (stopUnit_moved _ u)
    · exact ((releases_changeConv h hs rfl (by simp [hc]) (by simp) rfl).after f).after (frame_stopUnit _ u)
  · rename_i hn
    exact agree_frame f (agree_changeConv c _ _ (by simp [hc]) (by simp [ha]) hn.symm h)

theorem agree_completeAttach {s : State} (c : ConvId) (u : UnitId) (hu : (s.conv c).state = .attaching u)
    (h : s.RecordsAgree) : (s.completeAttach c u).RecordsAgree := by
  unfold State.completeAttach
  split
  · exact agree_frame (frame_placeOrder _ _) (agree_changeConv c _ _ (by simp) (by simp [hu])
      (by simp [hu, ConvState.spinning]) h)
  · have hs : s.Spins c u := .inl hu
    refine agree_stopSpun h hs (Moved.before (frame_detachConv s c) (stopUnit_moved _ u)) ?_
    refine Releases.after ?_ (frame_stopUnit _ u)
    have hsp : (s.conv c).state.spinning = some u := by rw [hu]; rfl
    simp only [State.detachConv, hsp]
    exact releases_changeConv h hs (frame_placeOrder s _ .convs (by decide)) (by simp) (by simp) rfl

theorem agree_mismatchConv {s : State} (c : ConvId) (v : UnitId) (ha : (s.conv c).state ≠ .absent)
    (hn : (s.conv c).state.spinning = none) (h : s.RecordsAgree) : (s.mismatchConv c v).RecordsAgree :=
  agree_frame (frame_detectAt _ _ _) (agree_changeConv c _ _ (by simp) (by simp [ha]) hn.symm h)

theorem agree_convIdle {s : State} (c : ConvId) (h : s.RecordsAgree) : (s.convIdle c).RecordsAgree := by
  unfold State.convIdle
  split <;> rename_i hs
  case h_5 => exact agree_faultConv c _ (by simp) (by simp [hs]) h
  all_goals first
    | exact h
    | exact agree_changeConv c _ _ (by simp) (by simp [hs]) (by simp [hs, ConvState.spinning]) h

theorem agree_convAttached {s : State} (c : ConvId) (v : UnitId) (h : s.RecordsAgree) :
    (s.convAttached c v).RecordsAgree := by
  unfold State.convAttached
  split <;> rename_i hs
  · exact agree_changeConv c _ _ (by simp) (by simp [hs]) (by simp [hs, ConvState.spinning]) h
  · exact agree_changeConv c _ _ (by simp) (by simp [hs]) (by simp [hs, ConvState.spinning]) h
  · exact agree_mismatchConv c v (by simp [hs]) (by simp [hs, ConvState.spinning]) h
  · refine agree_setConv c _ (fun k => ⟨?_, ?_⟩) (by simp [hs]) (by simp [hs, ConvState.spinning]) h
    · simpa [hs] using k.1
    · simpa [hs] using k.2
  · split
    · rename_i e
      exact agree_completeAttach c _ (e ▸ hs) h
    · exact agree_faultConv c _ (by simp) (by simp [hs]) h
  · split
    · exact h
    · exact agree_faultConv c _ (by simp) (by simp [hs]) h
  · split
    · exact h
    · exact agree_mismatchConv c v (by simp [hs]) (by simp [hs, ConvState.spinning]) h
  all_goals exact h

theorem agree_convFault {s : State} (c : ConvId) (h : s.RecordsAgree) : (s.convFault c).RecordsAgree := by
  unfold State.convFault
  split
  · exact h
  · exact h
  · rename_i k _
    exact agree_faultConv c _ (by simp) k h

theorem agree_takeConvReport {s : State} (c : ConvId) (r : ConvReport) (h : s.RecordsAgree) :
    (s.takeConvReport c r).RecordsAgree := by
  have k : (s.recordConvReport c r).RecordsAgree :=
    agree_setConv c _ (fun k => ⟨k.1, k.2⟩) Iff.rfl rfl h
  unfold State.takeConvReport
  simp only
  split
  · exact agree_convIdle c k
  · exact agree_convFault c k
  · split
    · exact agree_convAttached c _ k
    · exact k
  · split
    · exact agree_convAttached c _ k
    · exact k

theorem agree_expireConv {s : State} (c : ConvId) (h : s.RecordsAgree) : (s.expireConv c).RecordsAgree := by
  unfold State.expireConv
  split <;> first
    | (rename_i hs; exact agree_faultConv c _ (by simp) (by simp [hs]) h)
    | exact h

theorem agree_loseConv {s : State} (c : ConvId) (h : s.RecordsAgree) : (s.loseConv c).RecordsAgree := by
  unfold State.loseConv
  split
  · exact h
  · exact h
  · rename_i ha _
    refine agree_frame (frame_detectAt _ _ _) ?_
    split
    · rename_i u hu
      have hs := (spins_iff s c u).2 hu
      refine agree_stopSpun h hs ((stopUnit_moved s u).after (frame_changeConv _ _ _ _)) ?_
      exact releases_changeConv h hs (frame_stopUnit s u .convs (by decide)) (by simp) (by simp) rfl
    · rename_i hn
      exact agree_changeConv c _ _ (by simp) (iff_of_false (by simp) ha) hn.symm h

theorem agree_foldl {α : Type} (f : State → α → State)
    (hf : ∀ s x, s.RecordsAgree → (f s x).RecordsAgree) (l : List α) :
    ∀ s : State, s.RecordsAgree → (l.foldl f s).RecordsAgree := by
  induction l with
  | nil => exact fun _ h => h
  | cons x rest ih => exact fun s h => ih _ (hf s x h)

theorem agree_loseStation {s : State} (a : Nat) (h : s.RecordsAgree) : (s.loseStation a).RecordsAgree := by
  unfold State.loseStation
  split
  · exact agree_loseUnit _ h
  · refine agree_foldl _ (fun s c k => ?_) _ s h
    split
    · exact agree_loseConv c k
    · exact k

end Sys2Proof.Machine
end

