-- ==== Sys2Proof/Laws/KeepsRecordsExec.lean ====
section
/-! SUPPORT. The records of trackers, start queue and converters agree after the completions of solves, the
authority transitions, the resets, the management requests and the receptions. -/
-- One theorem at a time: elaborated side by side, the ones that wait for another take a thread each.
set_option Elab.async false
namespace Sys2Proof.Machine

/-! ## The completion of solves (R58 to R61, R80) -/

/-- A new entry names a machine in the state that its kind starts from (R108). -/
theorem agree_placeEntry {s : State} (u : UnitId) (k : EntryKind)
    (hu : (s.tracker u).state = if k = .changeover then .pump else .idle) (h : s.RecordsAgree) :
    (s.placeEntry u k).1.RecordsAgree := by
  have add : ∀ w : State, w.RecordsAgree → w.trackers = s.trackers →
      (w.setQueue (w.queue ++ [⟨u, k, s.now, .new, none⟩])).RecordsAgree := by
    intro w hw hq
    refine agree_setQueue _ (fun e he => ?_) hw
    rcases List.mem_append.1 he with he | he
    · exact hw.starts e he
    · simp only [List.mem_singleton] at he
      subst he
      simpa only [State.tracker, hq] using hu
  unfold State.placeEntry
  split
  · split
    · exact h
    · exact add _ (agree_withdrawEntry u h) rfl
  · exact add s h rfl

theorem agree_diffWithdraw {s : State} (u : UnitId) (h : s.RecordsAgree) : (s.diffWithdraw u).1.RecordsAgree := by
  unfold State.diffWithdraw
  split
  · exact agree_withdrawEntry u h
  · exact h

theorem agree_diffStop {s : State} (u : UnitId) (hu : (s.tracker u).state.steady = true)
    (h : s.RecordsAgree) : (s.diffStop u).1.RecordsAgree := by
  have hn : (s.tracker u).state ≠ .pumpSpin := fun e => by simp [e, TState.steady] at hu
  refine agree_of_move h (Moved.before (frame_queueStop s u) (moveTracker_moved _ u .stopping none .noCause))
    (releases_none (not_spins_of_state h hn) (frame_queueStop s u .convs (by decide)))
    ⟨by simp, by simp, fun _ => ?_⟩
  cases hs : (s.tracker u).state <;> simp [hs, TState.steady] at hu ⊢

theorem agree_diffAct {s : State} (n : Snapshot) (u : UnitId) (d : Cls) (h : s.RecordsAgree) :
    (s.diffAct n u d).1.RecordsAgree := by
  unfold State.diffAct
  simp only
  split
  · split
    · exact agree_diffWithdraw u h
    · split
      · rename_i k
        simp only [Bool.and_eq_true] at k
        exact agree_diffStop u k.1 h
      · exact h
  · split
    · rename_i k
      exact agree_placeEntry u _ (by simp [k]) h
    · split
      · rename_i k
        simp only [Bool.and_eq_true, decide_eq_true_eq] at k
        split
        · exact agree_placeEntry u _ (by simp [k.1]) h
        · exact agree_diffStop u (by simp [k.1, TState.steady]) h
      · split
        · exact agree_diffWithdraw u h
        · exact h
  · split
    · rename_i k
      exact agree_placeEntry u _ (by simp [k]) h
    · split
      · rename_i k
        simp only [Bool.and_eq_true, decide_eq_true_eq] at k
        exact agree_diffStop u (by simp [k.1, TState.steady]) h
      · split
        · exact agree_diffWithdraw u h
        · exact h

theorem agree_diffUnit {s : State} (n d u) (h : s.RecordsAgree) : (s.diffUnit n d u).1.RecordsAgree := by
  unfold State.diffUnit
  split
  · exact h
  · exact agree_diffAct n u _ h

theorem agree_diffAll (n d) (l : List UnitId) : ∀ s : State, s.RecordsAgree →
    (State.diffAll n d l s).1.RecordsAgree := by
  induction l with
  | nil => exact fun _ h => h
  | cons u rest ih => exact fun s h => ih _ (agree_diffUnit n d u h)

theorem agree_publishDeviation {s : State} (d) (h : s.RecordsAgree) : (s.publishDeviation d).RecordsAgree := by
  have k := agree_frame (frame_setSolver s { s.solver with deviation := d }) h
  unfold State.publishDeviation
  simp only
  split
  · exact agree_frame (frame_detectAt _ _ _) k
  · exact k

theorem agree_sendSetpoint {s : State} (p) (h : s.RecordsAgree) : (s.sendSetpoint p).RecordsAgree := by
  unfold State.sendSetpoint
  simp only
  split
  · exact agree_frame (frame_placeOrder _ _) (agree_setTracker _ _ rfl rfl
      (fun k => ⟨k.1, k.2, k.3, k.4, k.5, k.6, k.7, k.8, k.9, k.10⟩) h)
  · exact h

theorem agree_applyLoading {s : State} (l w) (h : s.RecordsAgree) : (s.applyLoading l w).RecordsAgree := by
  refine agree_foldl _ (fun s p k => ?_) _ _ (agree_publishDeviation _ h)
  split
  · exact k
  · exact agree_sendSetpoint p k

theorem agree_applyPlan {s : State} (n) (h : s.RecordsAgree) : (s.applyPlan n).1.RecordsAgree := by
  unfold State.applyPlan
  simp only
  have hd := agree_diffAll n (fun u => (n.desired n.commit u).1) (diffOrder n.commit.added) s h
  generalize State.diffAll n (fun u => (n.desired n.commit u).1) (diffOrder n.commit.added) s = da at hd
  refine agree_frame (frame_setSolver _ _) (agree_applyLoading _ _ ?_)
  split
  · exact agree_admissionWalk hd
  · exact hd

theorem agree_completeFull {s : State} (n) (h : s.RecordsAgree) : (s.completeFull n).RecordsAgree :=
  agree_frame (frame_fullTriggers _ _ _) (agree_frame (frame_chooseNextSolve _ _) (agree_applyPlan n h))

theorem agree_completeLoad {s : State} (n) (h : s.RecordsAgree) : (s.completeLoad n).RecordsAgree :=
  agree_frame (frame_chooseNextSolve _ _) (agree_applyLoading _ _ h)

/-! ## Authority, ESTOP and orders (chapter 2) -/

theorem mapUnits_get {α β : Type} (f : α → β) (v : Vector α 8) (u : Fin 8) :
    (mapUnits f v).get u = f (v.get u) := by
  match u with
  | 0 | 1 | 2 | 3 | 4 | 5 | 6 | 7 => rfl

theorem agree_emptyQueue {s : State} (h : s.RecordsAgree) : (s.setQueue []).RecordsAgree :=
  agree_setQueue [] (by simp) h

theorem frame_dropSolves (s : State) : Unchanged [.solver] s s.dropSolves :=
  (frame_discardSolve s).trans (frame_setSolver _ _)

theorem agree_leaveRemote {s : State} (h : s.RecordsAgree) : s.leaveRemote.RecordsAgree := by
  have h1 := agree_frame (frame_dropSolves _) (agree_emptyQueue h)
  have h2 := agree_frame (frame_setSolver _ { (s.setQueue []).dropSolves.solver with resolveNext := none }) h1
  have h3 := agree_frame (frame_setLine _ { s.line with
    orders := s.line.orders.filter (fun q => !q.order.removedOnLeavingRemote) }) h2
  have hl : (s.setQueue []).dropSolves.line = s.line := frame_dropSolves (s.setQueue []) .line (by decide)
  unfold State.leaveRemote
  simp only [State.setSolver_line, hl]
  refine agree_frame (frame_setTarget _ _) (agree_setTrackers _ (fun u => ?_) (fun u => ?_) (fun u k => ?_) h3)
  · rw [mapUnits_get]
    rfl
  · rw [mapUnits_get]
    rfl
  · rw [mapUnits_get]
    exact ⟨k.1, k.2, k.3, k.4, k.5, k.6, k.7, k.8, k.9, k.10⟩

theorem agree_afterAuthority {s : State} (was) (h : s.RecordsAgree) : (s.afterAuthority was).RecordsAgree := by
  unfold State.afterAuthority
  split
  · exact agree_leaveRemote h
  · exact agree_frame (frame_fullTrigger _ _) (agree_frame (frame_setTarget s _) h)
  · exact h

/-- The STOPs of ESTOP take every machine of a list out of PUMP_SPIN. -/
theorem fit_estopStops (l : List UnitId) : ∀ s : State, s.RecordsFit →
    (l.foldl (fun acc u => if (acc.tracker u).state.stoppedByEstop then acc.stopUnit u else acc) s).RecordsFit
      ∧ ∀ u, ((s.tracker u).state ≠ .pumpSpin ∨ u ∈ l) →
        ((l.foldl (fun acc u => if (acc.tracker u).state.stoppedByEstop then acc.stopUnit u else acc)
          s).tracker u).state ≠ .pumpSpin := by
  induction l with
  | nil => exact fun s h => ⟨h, fun u hu => by simpa using hu⟩
  | cons v rest ih =>
    intro s h
    have step : (if (s.tracker v).state.stoppedByEstop then s.stopUnit v else s).RecordsFit
        ∧ ∀ u, ((s.tracker u).state ≠ .pumpSpin ∨ u = v) →
          ((if (s.tracker v).state.stoppedByEstop then s.stopUnit v else s).tracker u).state ≠ .pumpSpin := by
      split
      · rename_i hv
        have m := stopUnit_moved s v
        have hc : (s.stopUnit v).convs = s.convs := frame_stopUnit s v .convs (by decide)
        have ec : ∀ c, (s.stopUnit v).conv c = s.conv c := fun c => by simp [State.conv, hc]
        refine ⟨fit_of_move h m ⟨by simp, by simp, fun _ => ?_⟩ (fun c => ?_) (fun c => by rw [ec]), fun u hu => ?_⟩
        · cases hs : (s.tracker v).state <;> simp [hs, TState.stoppedByEstop] at hv ⊢
        · rw [ec]
          exact h.convs c
        · by_cases huv : u = v
          · obtain ⟨now, r, e⟩ := m.enter
            rw [huv, e]
            simp [Tracker.enter]
          · rw [m.others u huv]
            exact hu.resolve_right huv
      · rename_i hv
        refine ⟨h, fun u hu => ?_⟩
        rcases hu with hu | rfl
        · exact hu
        · intro e
          simp [e, TState.stoppedByEstop] at hv
    obtain ⟨k1, k2⟩ := ih _ step.1
    refine ⟨k1, fun u hu => k2 u ?_⟩
    rcases hu with hu | hu
    · exact .inl (step.2 u (.inl hu))
    · rcases List.mem_cons.1 hu with rfl | hu
      · exact .inl (step.2 u (.inr rfl))
      · exact .inr hu

/-- The DETACHs of ESTOP take every converter of a list out of ATTACHING and DRIVING. -/
theorem fit_detachConv {s : State} (c : ConvId) (h : s.RecordsFit) : (s.detachConv c).RecordsFit
    ∧ (s.detachConv c).trackers = s.trackers ∧ (∀ u, ¬ (s.detachConv c).Spins c u)
    ∧ ∀ d, d ≠ c → (s.detachConv c).conv d = s.conv d := by
  have f := frame_detachConv s c
  have e1 : (s.detachConv c).settings = s.settings := f .settings (by decide)
  have e2 : (s.detachConv c).trackers = s.trackers := f .trackers (by decide)
  have e3 : (s.detachConv c).queue = s.queue := f .queue (by decide)
  have et : ∀ u, (s.detachConv c).tracker u = s.tracker u := fun u => by simp [State.tracker, e2]
  have key : (∀ u, ¬ (s.detachConv c).Spins c u) ∧ ((s.detachConv c).conv c).FitsItsState
      ∧ (((s.detachConv c).conv c).state = .absent ↔ (s.conv c).state = .absent)
      ∧ ∀ d, d ≠ c → (s.detachConv c).conv d = s.conv d := by
    unfold State.detachConv
    split
    · rename_i u hu
      have ec : ∀ d, (s.placeOrder (.conv c .detach)).conv d = s.conv d := fun d =>
        congrArg (·.get d) (frame_placeOrder s (.conv c .detach) .convs (by decide))
      refine ⟨fun v => ?_, changeConv_fits _ c _ _ (by simp), ?_, fun d hd => ?_⟩
      · rw [spins_iff, changeConv_conv]
        simp [ConvState.spinning]
      · rw [changeConv_conv]
        refine iff_of_false (by simp) (fun e => ?_)
        simp [e, ConvState.spinning] at hu
      · rw [changeConv_ne _ _ _ hd, ec]
    · rename_i hn
      exact ⟨fun v => by rw [spins_iff, hn]; simp, h.convs c, Iff.rfl, fun _ _ => rfl⟩
  obtain ⟨k1, k2, k3, k4⟩ := key
  have habs : ∀ d, ((s.detachConv c).conv d).state = .absent ↔ (s.conv d).state = .absent := fun d => by
    by_cases hd : d = c
    · rw [hd]
      exact k3
    · rw [k4 d hd]
  refine ⟨⟨?_, fun d => ?_, ?_, ?_, ?_⟩, e2, k1, k4⟩
  · simpa only [et] using h.trackers
  · by_cases hd : d = c
    · rw [hd]
      exact k2
    · rw [k4 d hd]
      exact h.convs d
  · simpa only [e3, et] using h.starts
  · rw [ne_eq, habs]
    exact h.first
  · rw [e1, ne_eq, habs]
    exact h.fitted

theorem agree_estopActions {s : State} (h : s.RecordsAgree) : s.estopActions.RecordsAgree := by
  obtain ⟨k1, k2⟩ := fit_estopStops allUnits s h.fit
  unfold State.estopActions
  simp only
  generalize (allUnits.foldl (fun acc u => if (acc.tracker u).state.stoppedByEstop then acc.stopUnit u else acc) s)
    = w at k1 k2
  have hw : ∀ u, (w.tracker u).state ≠ .pumpSpin := fun u => k2 u (.inr (by revert u; decide))
  obtain ⟨a1, a2, a3, a4⟩ := fit_detachConv 0 k1
  obtain ⟨b1, b2, b3, b4⟩ := fit_detachConv 1 a1
  have e : allConvs.foldl (fun acc c => acc.detachConv c) w = (w.detachConv 0).detachConv 1 := rfl
  rw [e]
  have ht : ∀ u, (((w.detachConv 0).detachConv 1).tracker u).state ≠ .pumpSpin := fun u => by
    simp only [State.tracker, b2, a2]
    exact hw u
  have hs : ∀ c u, ¬ ((w.detachConv 0).detachConv 1).Spins c u := by
    intro c u
    match c with
    | 0 =>
      have := a3 u
      simpa only [State.Spins, b4 0 (by decide)] using this
    | 1 => exact b3 u
  exact agree_frame (frame_setTarget _ _) (agree_emptyQueue
    (b1.agree (fun c u k => absurd k (hs c u)) (fun u k => absurd k (ht u))))

theorem agree_assertEstop {s : State} (h : s.RecordsAgree) : s.assertEstop.RecordsAgree := by
  have k := agree_estopActions (agree_frame (frame_setTarget _ { s.target with estopLatch := true })
    (agree_frame (frame_setInputs s { s.inputs with estopFlag := true }) h))
  unfold State.assertEstop State.latchEstop
  refine agree_frame (frame_detectAt _ _ _) ?_
  split
  · exact agree_leaveRemote k
  · exact k

theorem agree_acceptTarget {s : State} (n o r) (h : s.RecordsAgree) : (s.acceptTarget n o r).RecordsAgree := by
  have k : (s.storeTarget n o r).RecordsAgree := by
    unfold State.storeTarget
    simp only
    refine agree_frame (frame_setTarget _ _) ?_
    split
    · exact agree_frame (frame_detectAt _ _ _) h
    · exact h
  unfold State.acceptTarget
  simp only
  split
  · exact agree_frame (frame_fullTrigger _ _) k
  · split
    · exact agree_frame (frame_loadTrigger _) k
    · exact k

theorem agree_acceptHold {s : State} (on) (h : s.RecordsAgree) : (s.acceptHold on).RecordsAgree := by
  unfold State.acceptHold
  simp only
  split
  · exact h
  · split
    · exact agree_frame (frame_loadTrigger _) (agree_frame (frame_setTarget s _) h)
    · split
      · exact agree_frame (frame_loadTrigger _) (agree_frame (frame_setTarget s _) h)
      · split
        · exact agree_frame (frame_loadTrigger _) (agree_frame (frame_setTarget _ _)
            (agree_frame (frame_setTarget s _) h))
        · exact agree_frame (frame_loadTrigger _) (agree_frame (frame_setTarget _ _)
            (agree_frame (frame_setTarget s _) h))

theorem agree_acceptAdmit {s : State} (u a) (h : s.RecordsAgree) : (s.acceptAdmit u a).RecordsAgree := by
  unfold State.acceptAdmit
  simp only
  split
  · exact h
  · have k := agree_setTracker u { s.tracker u with admitted := a } rfl rfl
      (fun k => ⟨k.1, k.2, k.3, k.4, k.5, k.6, k.7, k.8, k.9, k.10⟩) h
    refine agree_frame (frame_fullTrigger _ _) ?_
    split
    · exact k
    · exact agree_withdrawEntry u k

theorem agree_judgeOrder {s : State} (n src) (f : State → State) (hf : s.RecordsAgree → (f s).RecordsAgree)
    (h : s.RecordsAgree) : (s.judgeOrder n src f).RecordsAgree := by
  unfold State.judgeOrder
  split
  · exact agree_frame (frame_detect _ _) h
  · split
    · exact hf h
    · exact agree_frame (frame_detectAt _ _ _) h

/-! ## Resets -/

theorem Tracker.reset_fits : Tracker.reset.FitsItsState := by
  refine ⟨?_, ?_, ?_, ?_, ?_, ?_, ?_, ?_, ?_, ?_⟩ <;> simp [Tracker.reset]

theorem ConvRecord.reset_fits (st : ConvState) (h : st = .unknown ∨ st = .absent) :
    (ConvRecord.resetAs st).FitsItsState := by
  rcases h with rfl | rfl <;> exact ⟨by simp [ConvRecord.resetAs], by simp [ConvRecord.resetAs]⟩

/-- The records after device reset agree. -/
theorem agree_of_reset {t : State} (h1 : t.settings = State.reset.settings)
    (h2 : t.trackers = State.reset.trackers) (h3 : t.queue = []) (h4 : t.convs = State.reset.convs) :
    t.RecordsAgree := by
  have et : ∀ u, t.tracker u = Tracker.reset := fun u => by
    simp [State.tracker, h2, State.reset, Vector.get_eq_getElem]
  have e0 : t.conv 0 = .resetAs .unknown := by simp only [State.conv, h4]; rfl
  have e1 : t.conv 1 = .resetAs .absent := by simp only [State.conv, h4]; rfl
  refine ⟨fun u => ?_, fun c => ?_, by simp [h3], by simp [e0, ConvRecord.resetAs], ?_, fun c u k => ?_, fun u k => ?_⟩
  · rw [et]
    exact Tracker.reset_fits
  · match c with
    | 0 => rw [e0]; exact ConvRecord.reset_fits _ (.inl rfl)
    | 1 => rw [e1]; exact ConvRecord.reset_fits _ (.inr rfl)
  · exact .inl ⟨by rw [h1]; rfl, by rw [e1]; rfl⟩
  · match c with
    | 0 => simp [State.Spins, e0, ConvRecord.resetAs] at k
    | 1 => simp [State.Spins, e1, ConvRecord.resetAs] at k
  · simp [et, Tracker.reset] at k

theorem agree_assertAtResetEnd {s : State} (h : s.RecordsAgree) : s.assertAtResetEnd.RecordsAgree := by
  have h1 : s.assertEstopHeld.RecordsAgree := by
    unfold State.assertEstopHeld
    split
    · exact agree_assertEstop h
    · exact h
  have h2 : s.assertEstopHeld.assertTripsHeld.RecordsAgree :=
    agree_foldl _ (fun s u k => by
      split
      · exact agree_assertTrip u k
      · exact k) allUnits _ h1
  unfold State.assertAtResetEnd State.flagLocalHeld
  split
  · exact agree_frame (frame_setInputs _ _) h2
  · exact h2

/-- An engine reset teaches the trackers and the fitted converters UNKNOWN and empties the start queue (R107,
R131). -/
theorem agree_beginEngineReset {s : State} (h : s.RecordsAgree) : s.beginEngineReset.RecordsAgree := by
  have f := frame_dropSolves (s.setQueue [])
  have fc : (s.setQueue []).dropSolves.convs = s.convs := f .convs (by decide)
  have e1 : s.beginEngineReset.settings = s.settings := f .settings (by decide)
  have e2 : ∀ u, s.beginEngineReset.tracker u = (s.tracker u).engineReset s.now := fun u => by
    have ft : (s.setQueue []).dropSolves.trackers = s.trackers := f .trackers (by decide)
    show (mapUnits (·.engineReset s.now) (s.setQueue []).dropSolves.trackers).get u = _
    rw [mapUnits_get, ft]
    rfl
  have e3 : s.beginEngineReset.queue = [] := f .queue (by decide)
  have e4 : ∀ c, s.beginEngineReset.conv c = (s.conv c).engineReset s.now := fun c => by
    match c with
    | 0 =>
      show ((s.setQueue []).dropSolves.convs.get 0).engineReset s.now = _
      rw [fc]
      rfl
    | 1 =>
      show ((s.setQueue []).dropSolves.convs.get 1).engineReset s.now = _
      rw [fc]
      rfl
  have fits : ∀ t : Tracker, (t.engineReset s.now).FitsItsState := fun t => by
    refine ⟨?_, ?_, ?_, ?_, ?_, ?_, ?_, ?_, ?_, ?_⟩ <;> simp [Tracker.engineReset, Tracker.reset]
  have abs : ∀ c, (s.beginEngineReset.conv c).state = .absent ↔ (s.conv c).state = .absent := fun c => by
    rw [e4]
    unfold ConvRecord.engineReset
    split
    · exact Iff.rfl
    · rename_i k
      exact iff_of_false (by simp) k
  have spins : ∀ c u, ¬ s.beginEngineReset.Spins c u := fun c u => by
    rw [spins_iff, e4]
    unfold ConvRecord.engineReset
    split
    · rename_i k
      simp [k, ConvState.spinning]
    · simp [ConvState.spinning]
  refine ⟨fun u => ?_, fun c => ?_, by simp [e3], ?_, ?_, fun c u k => absurd k (spins c u), fun u k => ?_⟩
  · rw [e2]
    exact fits _
  · rw [e4]
    unfold ConvRecord.engineReset
    split
    · exact ⟨(h.convs c).1, (h.convs c).2⟩
    · exact ⟨by simp, by simp⟩
  · rw [ne_eq, abs]
    exact h.first
  · rw [e1, ne_eq, abs]
    exact h.fitted
  · rw [e2] at k
    simp [Tracker.engineReset, Tracker.reset] at k

/-! ## SETTINGS (R116, R174, R175) -/

/-- Storing a field keeps the count of fitted converters, but for the field itself, which uses its write. -/
theorem store_fitted (t t' : Settings) (bit raw : Nat) (h : t.store bit raw = some t') :
    bit ≠ 1 ∧ t'.fitted = t.fitted ∧ t'.fittedUsed = t.fittedUsed
      ∨ bit = 1 ∧ (t'.fitted = 1 ∨ t'.fitted = 2) ∧ t'.fittedUsed = true := by
  have keep : ∀ {b : Bool} {x : Settings}, keepIf b x = some t' → b = true ∧ x = t' := by
    intro b x k
    unfold keepIf at k
    split at k
    · rename_i kb
      exact ⟨kb, Option.some.inj k⟩
    · cases k
  unfold Settings.store at h
  split at h
  case h_2 =>
    obtain ⟨k, rfl⟩ := keep h
    simp only [within, Bool.and_eq_true, decide_eq_true_eq] at k
    exact .inr ⟨rfl, by simp only; omega, rfl⟩
  case h_11 =>
    split at h
    · cases h; exact .inl ⟨by decide, rfl, rfl⟩
    · split at h
      · cases h; exact .inl ⟨by decide, rfl, rfl⟩
      · cases h
  case h_22 =>
    obtain ⟨a, _, e⟩ := Option.map_eq_some_iff.1 h
    subst e
    exact .inl ⟨by decide, rfl, rfl⟩
  case h_23 =>
    obtain ⟨a, _, e⟩ := Option.map_eq_some_iff.1 h
    subst e
    exact .inl ⟨by decide, rfl, rfl⟩
  case h_24 =>
    split at h
    · rename_i hb
      obtain ⟨_, rfl⟩ := keep h
      exact .inl ⟨by omega, rfl, rfl⟩
    · cases h
  all_goals
    obtain ⟨_, rfl⟩ := keep h
    exact .inl ⟨by decide, rfl, rfl⟩

theorem storeAll_fitted (l : List (Nat × Nat)) : ∀ t t' : Settings, Settings.storeAll l t = some t' →
    (t'.fitted = t.fitted ∧ t'.fittedUsed = t.fittedUsed
      ∨ 1 ∈ l.map Prod.fst ∧ (t'.fitted = 1 ∨ t'.fitted = 2) ∧ t'.fittedUsed = true) := by
  induction l with
  | nil =>
    intro t t' h
    cases h
    exact .inl ⟨rfl, rfl⟩
  | cons x rest ih =>
    obtain ⟨i, raw⟩ := x
    intro t t' h
    unfold Settings.storeAll at h
    split at h
    · rename_i t1 h1
      rcases ih t1 t' h with k | ⟨k1, k2⟩
      · rcases store_fitted t t1 i raw h1 with ⟨_, j⟩ | ⟨j1, j2⟩
        · exact .inl ⟨k.1.trans j.1, k.2.trans j.2⟩
        · exact .inr ⟨by simp [j1], by rw [k.1]; exact j2.1, k.2.trans j2.2⟩
      · exact .inr ⟨List.mem_cons_of_mem _ k1, k2⟩
    · cases h

theorem readFields_bits (mask : Nat) (l : List Nat) : ∀ (b : List Byte) (fields : List (Nat × Nat)),
    readFields mask l b = some fields → ∀ i ∈ fields.map Prod.fst, mask.testBit i = true := by
  induction l with
  | nil =>
    intro b fields h
    cases b with
    | nil =>
      cases h
      simp
    | cons x y => cases h
  | cons j rest ih =>
    intro b fields h
    unfold readFields at h
    split at h
    · rename_i hj
      split at h
      · obtain ⟨f, hf, rfl⟩ := Option.map_eq_some_iff.1 h
        intro i hi
        rcases List.mem_cons.1 hi with rfl | hi
        · exact hj
        · exact ih _ _ hf i hi
      · obtain ⟨f, hf, rfl⟩ := Option.map_eq_some_iff.1 h
        intro i hi
        rcases List.mem_cons.1 hi with rfl | hi
        · exact hj
        · exact ih _ _ hf i hi
      · cases h
    · exact ih _ _ h

/-- A WRITE of SETTINGS that is taken leaves the count of fitted converters, or writes it for the first
time. -/
theorem readSettings_fitted (t t' : Settings) (record : List Byte) (h : readSettings t record = some t')
    (hw : writesOnceAgain t record = false) :
    t'.fitted = t.fitted ∧ t'.fittedUsed = t.fittedUsed
      ∨ t.fittedUsed = false ∧ (t'.fitted = 1 ∨ t'.fitted = 2) ∧ t'.fittedUsed = true := by
  unfold readSettings at h
  split at h
  · cases h
  · rename_i mask hm
    split at h
    · cases h
    · rename_i fields hf
      split at h
      · rename_i w hs
        split at h
        · cases h
          rcases storeAll_fitted fields t t' hs with k | ⟨k1, k2⟩
          · exact .inl k
          · have hb := readFields_bits mask _ _ _ hf 1 k1
            simp only [writesOnceAgain, hm, Bool.or_eq_false_iff, hb, Bool.true_and] at hw
            exact .inr ⟨hw.2, k2⟩
        · cases h
      · cases h

/-- A raised count of fitted converters finds converter 2 ABSENT and leaves it UNKNOWN (R116). -/
theorem agree_afterFitted {s : State} (t : Settings) (ht : t.fitted = s.settings.fitted
      ∧ t.fittedUsed = s.settings.fittedUsed
    ∨ s.settings.fittedUsed = false ∧ (t.fitted = 1 ∨ t.fitted = 2) ∧ t.fittedUsed = true)
    (h : s.RecordsAgree) : ((s.setSettings t).afterFitted s.settings).RecordsAgree := by
  unfold State.afterFitted
  split
  · rename_i k
    have k2 : t.fitted = 2 := k.2
    have ha : (s.conv 1).state = .absent := by
      rcases h.fitted with j | j
      · exact j.2
      · rw [k.1] at j
        cases j.1
    have hu : t.fittedUsed = true := by
      rcases ht with j | j
      · rw [k2, k.1] at j
        cases j.1
      · exact j.2.2
    refine agree_frame (frame_setMiss _ _ _) ?_
    have e0 : ((s.setSettings t).changeConv 1 .unknown).conv 0 = s.conv 0 := changeConv_ne _ _ _ (by decide)
    have e1 : (((s.setSettings t).changeConv 1 .unknown).conv 1).state = .unknown := by rw [changeConv_conv]
    have spins : ∀ c u, ((s.setSettings t).changeConv 1 .unknown).Spins c u ↔ s.Spins c u := by
      intro c u
      match c with
      | 0 => simp only [State.Spins, e0]
      | 1 => simp only [State.Spins, e1, ha]; simp
    refine ⟨h.trackers, fun c => ?_, h.starts, ?_, .inr ⟨k2, hu, by rw [e1]; simp⟩, ?_, ?_⟩
    · match c with
      | 0 => rw [e0]; exact h.convs 0
      | 1 => exact changeConv_fits _ 1 _ _ (by simp)
    · rw [e0]
      exact h.first
    · exact fun c u k => h.spun c u ((spins c u).1 k)
    · exact fun u k => (h.spinning u k).imp (fun c hc => (spins c u).2 hc)
  · rename_i k
    refine ⟨h.trackers, h.convs, h.starts, h.first, ?_, h.spun, h.spinning⟩
    have k' : ¬ (s.settings.fitted = 1 ∧ t.fitted = 2) := k
    show t.fitted = 1 ∧ (s.conv 1).state = .absent
      ∨ t.fitted = 2 ∧ t.fittedUsed = true ∧ (s.conv 1).state ≠ .absent
    rcases ht with ⟨j1, j2⟩ | ⟨j1, j2, j3⟩
    · rw [j1, j2]
      exact h.fitted
    · rcases h.fitted with i | i
      · exact .inl ⟨j2.resolve_right (fun e => k' ⟨i.1, e⟩), i.2⟩
      · rw [j1] at i
        cases i.2.1

theorem agree_applyLimits {s : State} (h : s.RecordsAgree) : s.applyLimits.RecordsAgree := by
  unfold State.applyLimits
  simp only
  split
  · exact agree_frame (frame_fullTrigger _ _) (agree_frame (frame_setTarget s _) h)
  · split
    · exact agree_frame (frame_loadTrigger _) (agree_frame (frame_setTarget s _) h)
    · exact agree_frame (frame_setTarget s _) h

theorem agree_staleOrderNow {s : State} (h : s.RecordsAgree) : s.staleOrderNow.RecordsAgree :=
  agree_frame (frame_detectAt _ _ _) (agree_frame (frame_setTarget s _) h)

theorem agree_staleHeadNow {s : State} (h : s.RecordsAgree) : s.staleHeadNow.RecordsAgree :=
  agree_frame (frame_detectAt _ _ _) (agree_frame (frame_setTable s _) h)

theorem agree_afterSenses {s : State} (old) (h : s.RecordsAgree) : (s.afterSenses old).RecordsAgree :=
  agree_foldl _ (fun s u k => by
    split
    · exact agree_assertTrip u k
    · exact k) _ s h

theorem agree_ite {s t : State} (c : Prop) [Decidable c] (ht : t.RecordsAgree) (hs : s.RecordsAgree) :
    (if c then t else s).RecordsAgree := by
  split
  · exact ht
  · exact hs

theorem agree_afterResolvePeriod {s : State} (b) (h : s.RecordsAgree) : (s.afterResolvePeriod b).RecordsAgree := by
  unfold State.afterResolvePeriod
  split
  · split
    · exact agree_frame (frame_setSolver s _) h
    · split
      · exact agree_frame (frame_setSolver s _) h
      · split
        · exact agree_frame (frame_fullTrigger _ _) (agree_frame (frame_setSolver s _) h)
        · exact agree_frame (frame_setSolver s _) h
  · exact h

theorem agree_afterLimits {s : State} (old) (h : s.RecordsAgree) : (s.afterLimits old).RecordsAgree :=
  agree_ite _ (agree_applyLimits h) h

theorem agree_afterOrderTimeout {s : State} (old) (h : s.RecordsAgree) :
    (s.afterOrderTimeout old).RecordsAgree := agree_ite _ (agree_staleOrderNow h) h

theorem agree_afterDesignHead {s : State} (old) (h : s.RecordsAgree) : (s.afterDesignHead old).RecordsAgree :=
  agree_ite _ (agree_frame (frame_handHead _) (agree_frame (frame_setTable s _) h)) h

theorem agree_afterHeadStaleTime {s : State} (old) (h : s.RecordsAgree) :
    (s.afterHeadStaleTime old).RecordsAgree := agree_ite _ (agree_staleHeadNow h) h

theorem agree_afterStatusInterval {s : State} (old) (h : s.RecordsAgree) :
    (s.afterStatusInterval old).RecordsAgree := agree_ite _ (agree_frame (frame_setPort s _) h) h

theorem agree_writeSettings {s : State} (record) (h : s.RecordsAgree) :
    (s.writeSettings record).1.RecordsAgree := by
  unfold State.writeSettings
  split
  · exact agree_frame (frame_detectAt s _ _) h
  · rename_i hw
    split
    · exact agree_frame (frame_detectAt s _ _) h
    · rename_i t ht
      have k := agree_afterFitted t (readSettings_fitted _ _ _ ht (by simpa using hw)) h
      exact agree_walkAfter _ (agree_afterSenses _ (agree_afterStatusInterval _ (agree_afterResolvePeriod _
        (agree_afterHeadStaleTime _ (agree_afterDesignHead _ (agree_afterOrderTimeout _
          (agree_afterLimits _ k)))))))

/-! ## Management (chapter 9) -/

theorem agree_refuseWrite {s : State} (n r) (h : s.RecordsAgree) : (s.refuseWrite n r).1.RecordsAgree :=
  agree_frame (frame_detectAt s _ _) h

theorem agree_writeUnit {s : State} (u r) (h : s.RecordsAgree) : (s.writeUnit u r).1.RecordsAgree := by
  have store : ∀ v, (s.storeUnit u v).RecordsAgree := fun v => agree_frame (frame_setTable s _) h
  unfold State.writeUnit
  split
  · exact agree_refuseWrite _ _ h
  · unfold State.clearUnit
    split
    · exact h
    · split
      · exact agree_frame (frame_fullTrigger _ _) (agree_frame (frame_setMiss _ _ _)
          (agree_withdrawEntry u (store none)))
      · exact agree_refuseWrite _ _ h
  · unfold State.writePresent
    split
    · exact agree_frame (frame_fullTrigger _ _) (agree_frame (frame_setMiss _ _ _) (store _))
    · exact agree_repin u _ _ (store _)

theorem agree_writeObject {s : State} (o i r) (h : s.RecordsAgree) : (s.writeObject o i r).1.RecordsAgree := by
  unfold State.writeObject
  split
  · exact agree_writeSettings r h
  · split
    · exact agree_writeUnit _ r h
    · exact h
  · split
    · unfold State.writeGroup
      split
      · exact agree_frame (frame_setTable s _) h
      · exact agree_refuseWrite _ _ h
    · exact h
  all_goals try
    unfold State.writeMerit
    split
    · exact agree_frame (frame_setTable s _) h
    · exact agree_frame (frame_setTable s _) h
    · exact agree_refuseWrite _ _ h
  · split
    · unfold State.writeClass
      split
      · exact agree_frame (frame_setClasses s _) h
      · exact agree_refuseWrite _ _ h
    · exact h
  · split
    · unfold State.writeSeverity
      split
      · exact agree_frame (frame_setErrors s _) h
      · exact agree_refuseWrite _ _ h
    · exact h
  · unfold State.writeNotice
    split
    · exact agree_frame (frame_setErrors s _) h
    · exact agree_refuseWrite _ _ h
  · exact h

theorem agree_clearObject {s : State} (o i) (h : s.RecordsAgree) : (s.clearObject o i).1.RecordsAgree := by
  unfold State.clearObject
  split
  · exact agree_frame (frame_countTraffic _ _) (agree_frame (frame_setErrors s _) h)
  · exact agree_frame (frame_setErrors s _) h
  · exact agree_frame (frame_setErrors s _) h
  · unfold State.clearLineFlag State.clearTripFlag
    split
    · exact agree_ite _ h (agree_frame (frame_setInputs s _) h)
    · split
      · exact agree_frame (frame_setInputs s _) h
      · split
        · exact agree_ite _ h (agree_frame (frame_setInputs s _) h)
        · exact h
  · exact h

theorem agree_clearUnitFault {s : State} (u) (h : s.RecordsAgree) : (s.clearUnitFault u).1.RecordsAgree := by
  unfold State.clearUnitFault
  simp only
  split
  · exact h
  · rename_i hf
    simp only [ne_eq, not_not] at hf
    split
    · exact h
    · split
      · exact h
      · refine agree_changeTracker u _ .noCause (by simp [hf]) ?_ h
        split <;> exact ⟨by simp, by simp, by simp⟩

theorem agree_clearConverter {s : State} (c) (h : s.RecordsAgree) : (s.clearConverter c).1.RecordsAgree := by
  unfold State.clearConverter
  simp only
  split
  · exact h
  · rename_i hf
    simp only [ne_eq, not_not] at hf
    split
    · exact agree_walkAfter _ (agree_changeConv c _ _ (by simp) (by simp [hf])
        (by simp [hf, ConvState.spinning]) h)
    · exact h

theorem agree_setAuthority {s : State} (v) (h : s.RecordsAgree) : (s.setAuthority v).RecordsAgree :=
  agree_walkAfter _ (agree_afterAuthority _ (agree_frame (frame_setTarget s _) h))

theorem agree_whenBare {s : State} (r) (x : State × Reply) (hx : x.1.RecordsAgree) (h : s.RecordsAgree) :
    (whenBare r s x).1.RecordsAgree := by
  unfold whenBare
  split
  · exact hx
  · exact h

theorem frame_restartScan (s : State) : Unchanged [.line] s s.restartScan := frame_lineFree s _

theorem agree_act {s : State} (a n r) (h : s.RecordsAgree) : (s.act a n r).1.1.RecordsAgree := by
  unfold State.act
  split
  · refine agree_whenBare _ _ ?_ h
    unfold State.solveNow
    split
    · exact agree_frame (frame_fullTrigger s _) h
    · exact h
  · split
    · exact agree_whenBare _ _ (agree_clearUnitFault _ h) h
    · exact h
  · split
    · split
      · exact h
      · exact agree_whenBare _ _ (agree_clearConverter _ h) h
    · exact h
  · refine agree_whenBare _ _ ?_ h
    unfold State.clearEstop
    split
    · exact h
    · split
      · exact h
      · exact agree_frame (frame_setTarget s _) h
  · split
    · exact agree_whenBare _ _ (agree_setAuthority _ h) h
    · exact agree_whenBare _ _ (agree_setAuthority _ h) h
    · exact h
  · exact agree_whenBare _ _ (agree_frame (frame_restartScan s) h) h
  · refine agree_whenBare _ _ ?_ h
    show s.stopScan.RecordsAgree
    unfold State.stopScan
    split
    · exact h
    · split <;> exact agree_frame (frame_setLine s _) h
  · refine agree_whenBare _ _ ?_ h
    unfold State.stepScan
    split
    · split
      · exact h
      · split
        · exact h
        · exact agree_frame (frame_lineFree s _) h
    · exact h
  · split
    · exact agree_frame (frame_restartScan _) (agree_frame (frame_setLine s _) h)
    · exact h
  all_goals first
    | exact agree_whenBare _ _ h h
    | exact h

theorem agree_perform {s : State} (k o i r) (h : s.RecordsAgree) : (s.perform k o i r).1.1.RecordsAgree := by
  unfold State.perform
  split
  · exact h
  · exact agree_writeObject o i r h
  · exact agree_clearObject o i h
  · exact agree_act o i r h
  · exact h

theorem agree_answer {s : State} (d n r a) (h : s.RecordsAgree) : (s.answer d n r a).RecordsAgree := by
  unfold State.answer
  simp only
  split
  · exact agree_frame (frame_offerOwn s _) h
  · exact agree_frame (frame_setLine _ _) (agree_frame (frame_offerOwn s _) h)
  · exact agree_beginEngineReset (agree_frame (frame_offerOwn s _) h)
  · exact agree_frame (frame_setResetAwaiting _ _) (agree_frame (frame_offerResetReply s _) h)

theorem agree_manage {s : State} (src p) (h : s.RecordsAgree) : (s.manage src p).RecordsAgree := by
  unfold State.manage
  simp only
  split
  · exact agree_answer _ _ _ _ h
  · split
    · exact agree_answer _ _ _ _ (agree_perform _ _ _ _ h)
    · exact agree_answer _ _ _ _ h

/-! ## Receptions (chapters 7 and 8) -/

theorem agree_unknownKind {s : State} (p f) (h : s.RecordsAgree) : (s.unknownKind p f).RecordsAgree :=
  agree_frame (frame_detectAt s _ _) h

theorem agree_refuseFrame {s : State} (p f) (h : s.RecordsAgree) : (s.refuseFrame p f).RecordsAgree :=
  agree_frame (frame_detectAt s _ _) h

theorem agree_consumeOwned {s : State} (p f) (o : State → State) (ho : (o s).RecordsAgree)
    (h : s.RecordsAgree) : (s.consumeOwned p f o).RecordsAgree := by
  unfold State.consumeOwned
  split
  · unfold State.consumeTarget
    split
    · exact agree_judgeOrder _ _ _ (agree_acceptTarget _ _ _) h
    · exact agree_unknownKind p f h
  · unfold State.consumeHold
    split
    · exact agree_judgeOrder _ _ _ (agree_acceptHold _) h
    · exact agree_unknownKind p f h
  · unfold State.consumeAdmit
    split
    · exact agree_judgeOrder _ _ _ (agree_acceptAdmit _ _) h
    · exact agree_unknownKind p f h
  · unfold State.consumeHead
    split
    · exact agree_frame (frame_handHead _) (agree_frame (frame_setTable s _) h)
    · exact agree_unknownKind p f h
  · exact ho

theorem agree_consumeFrame {s : State} (p f) (h : s.RecordsAgree) : (s.consumeFrame p f).RecordsAgree :=
  agree_consumeOwned p f _ (agree_ite _ (agree_refuseFrame p f h) (agree_unknownKind p f h)) h

theorem agree_forwardFrame {s : State} (p f) (h : s.RecordsAgree) : (s.forwardFrame p f).RecordsAgree := by
  unfold State.forwardFrame
  split
  · exact agree_frame (frame_offerForwardDown s f) h
  · exact agree_frame (frame_offerForwardUp s f) h

theorem agree_actOn {s : State} (p f a) (h : s.RecordsAgree) : (s.actOn p f a).RecordsAgree := by
  unfold State.actOn
  split
  · exact agree_consumeFrame p f h
  · exact agree_forwardFrame p f h
  · exact agree_forwardFrame p f (agree_consumeFrame p f h)
  · exact agree_frame (frame_countTraffic s _) h

theorem agree_classify {s : State} (p f) (h : s.RecordsAgree) : (s.classify p f).RecordsAgree := by
  have hc := agree_frame (frame_countTraffic s (fun t => t.received p)) h
  unfold State.classify
  simp only
  split
  · unfold State.consumeUnitReport
    split
    · exact agree_walkAfter _ (agree_takeReport _ _ hc)
    · exact agree_unknownKind _ f hc
  · unfold State.consumeConvReport
    split
    · exact agree_walkAfter _ (agree_takeConvReport _ _ hc)
    · exact agree_unknownKind _ f hc
  · unfold State.classifyByDest
    split
    · unfold State.takeOwn
      split
      · exact agree_refuseFrame _ f hc
      · exact agree_consumeOwned _ f _ (agree_ite _ (agree_manage _ _ hc) (agree_unknownKind _ f hc)) hc
    · split
      · exact agree_forwardFrame p f (agree_consumeOwned p f id hc hc)
      · exact agree_actOn p f _ hc

theorem agree_receiveFrameU {s : State} (f) (h : s.RecordsAgree) : (s.receiveFrameU f).RecordsAgree :=
  agree_ite _ (agree_classify _ f h) (agree_frame (frame_detectAt s _ _) h)

theorem agree_receiveBytesU {s : State} (b) (h : s.RecordsAgree) : (s.receiveBytesU b).RecordsAgree := by
  unfold State.receiveBytesU
  split
  · exact agree_classify _ _ h
  · exact agree_frame (frame_detectAt s _ _) h

theorem agree_missWindow {s : State} (a adv) (h : s.RecordsAgree) : (s.missWindow a adv).RecordsAgree := by
  have k : (s.countMiss a).RecordsAgree := by
    unfold State.countMiss
    split
    · simp only
      have m := agree_frame (frame_detectAt _ .pollMiss a) (agree_frame (frame_setMiss s a
        (min (s.missCount a + 1) s.settings.missLimit)) h)
      exact agree_ite _ (agree_walkAfter _ (agree_loseStation a m)) m
    · exact h
  exact agree_frame (frame_lineFree _ _) (agree_frame (frame_setLine _ _) k)

theorem agree_afterInvalid {s : State} (h : s.RecordsAgree) : s.afterInvalid.RecordsAgree := by
  unfold State.afterInvalid
  split
  · exact agree_missWindow _ _ h
  · exact h

theorem agree_lineReception {s : State} (r) (h : s.RecordsAgree) : (s.lineReception r).RecordsAgree := by
  have he : s.endReception.RecordsAgree := agree_frame (frame_setLine s _) h
  have bad : ∀ (x : State) n, x.RecordsAgree → ((x.detectAt .dFrameCheck n).afterInvalid).RecordsAgree :=
    fun x n k => agree_afterInvalid (agree_frame (frame_detectAt x _ _) k)
  unfold State.lineReception
  split
  · exact he
  · unfold State.receiveD
    simp only
    split
    · exact agree_afterInvalid he
    · unfold State.judgeReply
      split
      · split
        · refine agree_frame (frame_lineFree _ _) (agree_frame (frame_setLine _ _) ?_)
          unfold State.handReply
          simp only
          have hm : ∀ a : Nat, (if s.endReception.tracked a then s.endReception.setMiss a 0
              else s.endReception).RecordsAgree := fun a =>
            agree_ite _ (agree_frame (frame_setMiss s.endReception a 0) he) he
          exact agree_ite _ (hm _) (agree_classify _ _ (hm _))
        · exact bad _ _ he
      · exact bad _ _ he
    · exact bad _ _ he

theorem agree_windowTimeout {s : State} (h : s.RecordsAgree) : s.windowTimeout.RecordsAgree := by
  unfold State.windowTimeout
  split
  · split
    · exact agree_frame (frame_setLine s _) h
    · exact agree_missWindow _ _ h
  · exact h

theorem agree_dispatchSent {s : State} (h : s.RecordsAgree) : s.dispatchSent.RecordsAgree := by
  unfold State.dispatchSent
  split
  · split
    · exact agree_of_reset rfl rfl rfl rfl
    · exact agree_frame (frame_txFree s _) h
  · exact h

theorem agree_statusExpiry {s : State} (h : s.RecordsAgree) : s.statusExpiry.RecordsAgree := by
  have k := agree_frame (frame_setPort s { s.port with
    statusLast := s.port.statusNext, statusNext := s.port.statusNext + s.settings.statusInterval }) h
  unfold State.statusExpiry
  simp only
  split
  · exact k
  · split
    · exact agree_frame (frame_countTraffic _ _) (agree_frame (frame_setPort _ _) k)
    · exact agree_frame (frame_offerOwn _ _) k

theorem agree_onLocalLine {s : State} (a) (h : s.RecordsAgree) : (s.onLocalLine a).RecordsAgree := by
  unfold State.onLocalLine
  split
  · exact agree_frame (frame_setInputs s _) h
  · exact agree_walkAfter _ (agree_afterAuthority _ (agree_frame (frame_setInputs _ _)
      (agree_frame (frame_setInputs s _) h)))

theorem agree_whenRunning {s : State} (f : State → State) (hf : s.RecordsAgree → (f s).RecordsAgree)
    (h : s.RecordsAgree) : (s.whenRunning f).RecordsAgree := by
  unfold State.whenRunning
  split
  · exact h
  · exact hf h

theorem agree_receiveOn {s : State} (p f) (h : s.RecordsAgree) : (s.receiveOn p f).RecordsAgree := by
  unfold State.receiveOn
  split
  · exact agree_whenRunning _ (agree_receiveFrameU f) h
  · exact agree_lineReception _ h

/-- A management request, whatever it asks (R170). -/
theorem agree_request {s : State} (src req k o i r) (h : s.RecordsAgree) :
    (s.whenRunning (fun x => x.request src req k o i r)).RecordsAgree :=
  agree_whenRunning _ (fun h => agree_receiveFrameU _ h) h

theorem agree_deviceResetEnd {s : State} : s.endDeviceReset.RecordsAgree :=
  agree_frame (frame_lineChoose _) (agree_assertAtResetEnd (agree_of_reset rfl rfl rfl rfl))

end Sys2Proof.Machine
end

