-- ==== Sys2Proof/Laws/Port.lean ====
section
/-! SUPPORT. What joins the own queue and what a detection, a request and its reply do, said once (R164, R165,
R170, R171, R183 to R188). -/
namespace Sys2Proof.Machine

/-- A frame that joins the own queue waits behind the frames there, in transmission or not. -/
theorem joinOwn_outgoing (s : State) (x : OwnFrame) : (s.joinOwn x).outgoing = s.outgoing ++ [x] := by
  unfold State.joinOwn State.txChoose State.outgoing
  cases htx : s.port.tx with
  | some y => simp [htx]
  | none => cases ho : s.port.own <;> simp [htx]

/-- A frame that joins the own queue changes that queue and the frame in transmission, nothing else. -/
theorem joinOwn_port (s : State) (x : OwnFrame) : ∃ own tx,
    s.joinOwn x = s.setPort { s.port with own := own, tx := tx } := by
  unfold State.joinOwn State.txChoose
  cases htx : s.port.tx with
  | some y => exact ⟨s.port.own ++ [x], some y, by simp [htx]⟩
  | none =>
    cases ho : s.port.own with
    | nil => exact ⟨[], some x, by simp [htx]⟩
    | cons y l => exact ⟨l ++ [x], some y, by simp [htx]⟩

/-- A detection with a place in the own queue is recorded whole and changes nothing else. -/
theorem detect_records (s : State) (d : Detection) (h : s.ownHasPlace) :
    s.Records (s.detect d) d ∧ Unchanged [.errors, .port] s (s.detect d) := by
  have hf : (s.note d).ownFull = false := by
    simp only [State.ownFull, decide_eq_false_iff_not, Nat.not_le]
    exact h
  by_cases hr : s.raisesNotice d = true
  · have e : s.detect d = (s.note d).joinOwn ⟨s.alarmFrame d, false⟩ := by
      unfold State.detect State.detectChain
      simp only [hf, if_pos hr]
      rfl
    obtain ⟨own, tx, hp⟩ := joinOwn_port (s.note d) ⟨s.alarmFrame d, false⟩
    simp only [State.raisesNotice, Bool.and_eq_true, Bool.not_eq_true', bne_iff_ne] at hr
    rw [e]
    refine ⟨⟨?_, ?_, ?_⟩, ?_⟩
    · rw [hp]; rfl
    · rw [if_pos ⟨hr.1.1, hr.1.2, hr.2⟩]
      exact joinOwn_outgoing _ _
    · rw [hp]; rfl
    · rw [hp]
      exact (frame_note s d).seq (frame_setPort _ _)
  · have e : s.detect d = s.note d := by
      unfold State.detect State.detectChain
      simp only [if_neg hr]
    simp only [State.raisesNotice, Bool.and_eq_true, Bool.not_eq_true', bne_iff_ne] at hr
    rw [e]
    refine ⟨⟨rfl, ?_, rfl⟩, (frame_note s d).mono (by simp)⟩
    rw [if_neg (by tauto)]
    simp [State.outgoing, State.note]

/-- A frame offered to an own queue with a place joins it. -/
theorem offerOwn_joins (s : State) (f : Frame) (h : s.ownHasPlace) :
    s.offerOwn f = s.joinOwn ⟨f, false⟩ := by
  unfold State.offerOwn State.ownFull
  rw [if_neg (by simpa [State.ownHasPlace, Nat.not_le] using h)]

theorem byteOf_toNat (n : Nat) (h : n < 256) : (byteOf n).toNat = n := by
  simp [byteOf, Nat.mod_eq_of_lt h]

theorem byteOf_toNat_eq (b : Byte) : byteOf b.toNat = b := by
  simp [byteOf]

theorem be16_nat16 (n : Nat) (h : n < 65536) : nat16 (byteOf (n / 256)) (byteOf n) = n := by
  simp only [nat16, byteOf, BitVec.toNat_ofNat]
  omega

/-- A frame from the dispatch port for the station address is counted and taken as the part's own
(R155, R156, R169). -/
theorem classify_own (s : State) (f : Frame) (h : f.dest.toNat = s.settings.stationAddr) :
    s.classify .u f = s.counted.takeOwn .u f := by
  have e : s.classify .u f = s.counted.classifyByDest .u f := rfl
  have hs : s.counted.settings = s.settings := rfl
  rw [e, State.classifyByDest, hs, if_pos h]

/-- A taken request is counted, performed and answered (R170, R171). -/
theorem request_performed (s : State) (src : Byte) (req : BitVec 16) (k o i : Byte) (record : List Byte)
    (h : s.takesRequests) (hr : record.length + 5 ≤ Config.maxPayload) :
    s.request src req k o i record =
      (s.counted.perform k.toNat o.toNat i.toNat record).1.1.answer src.toNat req.toNat
        (s.counted.perform k.toNat o.toNat i.toNat record).1.2
        (s.counted.perform k.toNat o.toNat i.toNat record).2 := by
  obtain ⟨hp, hw, hl, ha⟩ := h
  have hfit : frameFits (mkFrame s.settings.stationAddr src.toNat .mgmtRequest
      (be16 req.toNat ++ [k, o, i] ++ record)) = true := by
    simp only [frameFits, mkFrame, be16]
    simp
    omega
  have hd : (byteOf s.settings.stationAddr).toNat = s.settings.stationAddr :=
    byteOf_toNat _ (by omega)
  have hk : kindOf (kindCode .mgmtRequest) = some .mgmtRequest := by decide
  have hb : s.counted.busy = false := by
    simp [State.busy, State.counted, State.countTraffic, hp, hw, hl]
  have hq : requestNumber (byteOf (req.toNat / 256) :: byteOf req.toNat :: k :: o :: i :: record)
      = req.toNat :=
    be16_nat16 _ req.isLt
  unfold State.request State.receiveFrameU
  rw [if_pos hfit, classify_own _ _ hd]
  simp only [State.takeOwn, State.consumeOwned, mkFrame, hk, if_true]
  unfold State.manage
  simp only [hb, hq, be16, byteOf_toNat_eq, List.cons_append, List.nil_append]
  rfl

/-- A frame offered to an own queue with a place is the one frame that joins (R164). -/
theorem offerOwn_gains (x : State) (f : Frame) (h : x.ownHasPlace) : x.Gains (x.offerOwn f) f := by
  rw [offerOwn_joins x _ h]
  obtain ⟨own, tx, hj⟩ := joinOwn_port x ⟨f, false⟩
  refine ⟨joinOwn_outgoing _ _, ?_, ?_⟩
  · rw [hj]
    rfl
  · rw [hj]
    exact frame_setPort _ _

/-- A frame offered to a full own queue is dropped (R164). -/
theorem offerOwn_drops (x : State) (f : Frame) (h : ¬ x.ownHasPlace) :
    x.offerOwn f = x.detectAt .uOwnOverflow 0 := by
  unfold State.offerOwn State.ownFull
  rw [if_pos (by simpa [State.ownHasPlace] using h)]
  rfl

/-- A reply that begins no reset joins, or is dropped (R164, R170). -/
theorem answer_answers (x : State) (src : Byte) (req : BitVec 16) (r : Reply) :
    x.Answers (x.answer src.toNat req.toNat r .nothing) src req r :=
  ⟨offerOwn_gains x _, offerOwn_drops x _⟩

/-- A taken request that begins no reset: what it performed, then the reply. -/
theorem request_answers (s : State) (src : Byte) (req : BitVec 16) (k o i : Byte) (record : List Byte)
    (t : State) (r : Reply) (h : s.takesRequests) (hr : record.length + 5 ≤ Config.maxPayload)
    (hp : s.counted.perform k.toNat o.toNat i.toNat record = ((t, r), .nothing)) :
    ∃ x, s.whenRunning (fun x => x.request src req k o i record) = x ∧ t.Answers x src req r := by
  have e := request_performed s src req k o i record h hr
  rw [hp] at e
  refine ⟨_, rfl, ?_⟩
  have hw : s.whenRunning (fun x => x.request src req k o i record)
      = s.request src req k o i record := by
    unfold State.whenRunning
    rw [h.1]
  rw [hw, e]
  exact answer_answers t src req r

end Sys2Proof.Machine
end

