-- ==== Sys2Proof/Tests/Slice0.lean ====
section
/-! SUPPORT. Tests of the model on the worked cases of spec/ and on values computed by hand from its rules,
the ill-formed commands that well-formedness refuses, and for each statement with hypotheses a state and
operands that meet them. -/
namespace Sys2Proof.Tests
open Sys2Proof.Machine Host

/-! ## Helpers -/

/-- The state after a command. -/
def after (c : Instr) (s : State) : State :=
  match exec c s with
  | .next t => t
  | _ => s

/-- The four machines of section 1.7. The times are the test's own. -/
def machine (kind : UnitKind) (group : GroupId) (genMin genMax : Nat) (points : List Breakpoint)
    (reach1 reach2 : Bool) (changeover : Permission) : UnitRecord :=
  { kind := kind, group := group, genMin := genMin, genMax := genMax, points := points
    reach1 := reach1, reach2 := reach2, genStartTime := 300, spinTime := 240, primeTime := 180
    changeoverTime := 120, stopTime := 240, minRun := 600, minRest := 120, changeover := changeover }

/-- U1 of section 1.7. -/
def u1 : UnitRecord := machine .variableSpeed 0 800 3200
  [⟨3800, 2050, 3150⟩, ⟨4600, 1906, 3006⟩, ⟨5600, 1706, 2806⟩] true true .permitted
/-- U2 of section 1.7. -/
def u2 : UnitRecord := machine .fixedSpeed 0 900 3000
  [⟨5000, 2950, 2950⟩, ⟨5400, 2810, 2810⟩] true false .notPermitted
/-- U3 of section 1.7. -/
def u3 : UnitRecord := machine .fixedSpeed 1 900 3000
  [⟨5000, 2902, 2902⟩, ⟨5400, 2742, 2742⟩] false true .notPermitted
/-- U4 of section 1.7. -/
def u4 : UnitRecord := machine .variableSpeed 1 500 3200
  [⟨5000, 1693, 2780⟩, ⟨5400, 1713, 2841⟩] true true .permitted

/-- A tracker in a state with a valid report of a power, its run and rest times served. -/
def runs (st : TState) (power : Int) : Tracker :=
  { Tracker.reset with
    state := st, rptPower := power, rptValid := true, runSince := some 0, restSince := some 0
    pin := .served }

/-- The plant of sections 1.7 and 3.6 under REMOTE at H = 5130 with both converters FREE and the line
busy, its four trackers given. -/
def plant (a b c d : Tracker) : State :=
  { State.reset with
    settings := { State.reset.settings with
      plantMin := -20000, plantMax := 20000, rampInterval := 2, orderTimeout := 30, dispatchAddr := 100
      fitted := 2 }
    table := { State.reset.table with
      units := #v[some u1, some u2, some u3, some u4, none, none, none, none]
      groups := #v[⟨.notPermitted, true⟩, ⟨.permitted, true⟩, ⟨.notPermitted, true⟩, ⟨.notPermitted, true⟩]
      meritGen := [0, 1, 2, 3], meritPump := [1, 0, 2, 3], head := 5130, headValid := true
      headRef := 1000 }
    target := { State.reset.target with setting := .remote }
    trackers := #v[a, b, c, d, .reset, .reset, .reset, .reset]
    convs := #v[.resetAs .free, .resetAs .free]
    line := { State.reset.line with activity := .sending .forwarded (mkFrame 11 100 .nil []) }
    errors := { State.reset.errors with now := 1000 } }

/-- All four machines at rest. -/
def atRest : State := plant (runs .idle 0) (runs .idle 0) (runs .idle 0) (runs .idle 0)

/-- The loadings of section 4.7. -/
def loaded : State := plant (runs .gen 2401) (runs .idle 0) (runs .gen 2300) (runs .gen 2300)

/-- A state with other targets. -/
def withTargets (s : State) (tf te : Int) : State := { s with target := { s.target with tf := tf, te := te } }

/-- A state at another device time. -/
def atTime (s : State) (t : Time) : State := { s with errors := { s.errors with now := t } }

/-- The bytes of a word written out. -/
def bytes (l : List Nat) : List Byte := l.map (BitVec.ofNat 8)

/-! ## Well-formedness: an ill-formed command for each check -/

set_option maxRecDepth 8000 in
theorem test_wf_check_failure_is_no_frame :
    (Instr.uFrameCheck (frameBytes (mkFrame 5 100 .stop []))).wellFormed = false := by decide
theorem test_wf_classify_has_no_row : (Instr.frameClassify .u 5 100 (kindCode .target) []).wellFormed = false
    ∧ (Instr.frameClassify .u 5 100 (kindCode .stop) []).wellFormed = true := by decide
set_option maxRecDepth 8000 in
theorem test_wf_payload : (Instr.target .u 240 100 (List.replicate 513 0)).wellFormed = false
    ∧ (Instr.target .u 240 100 (List.replicate 512 0)).wellFormed = true := by decide
theorem test_wf_reception_has_bytes : (Instr.replyWindowReception []).wellFormed = false
    ∧ (Instr.strayReception []).wellFormed = false := by decide
set_option maxRecDepth 8000 in
theorem test_wf_record : (Instr.writeNotice 9 0 (List.replicate 508 0)).wellFormed = false
    ∧ (Instr.writeNotice 9 0 (List.replicate 507 0)).wellFormed = true := by decide
theorem test_no_word_spells_a_command : decodeTableWord 8 0 = none := by decide

/-! ## Frames (R190) -/

set_option maxRecDepth 20000 in
/-- The check of "123456789" is 29B1 hexadecimal (R190). -/
theorem test_frame_check : frameCheck (bytes [0x31, 0x32, 0x33, 0x34, 0x35, 0x36, 0x37, 0x38, 0x39]) = 0x29B1 := by
  decide

/-! ## Pump bands (section 1.7) -/

theorem test_bands_at_5130 : u1.band 5130 .pump = ⟨-2900, -1800⟩ ∧ u2.band 5130 .pump = ⟨-2904, -2904⟩
    ∧ u3.band 5130 .pump = ⟨-2850, -2850⟩ ∧ u4.band 5130 .pump = ⟨-2800, -1700⟩ := by decide
theorem test_bands_at_the_ends : u1.band 0 .pump = ⟨-3150, -2050⟩ ∧ u4.band 0 .pump = ⟨-2780, -1693⟩
    ∧ u1.band 20000 .pump = ⟨-2806, -1706⟩ ∧ u4.band 20000 .pump = ⟨-2841, -1713⟩ := by decide

/-! ## Commitment and loading (sections 3.6, 4.7 and 4.8) -/

/-- The units, classes and bases that a commitment adds. -/
def added (s : State) : List (UnitId × Cls × Basis) :=
  s.snapshot.commit.added.map (fun p => (p.unit, p.cls, p.basis))

/-- A state with another generate list and another pump list. -/
def withMerit (s : State) (gen pump : List UnitId) : State :=
  { s with table := { s.table with meritGen := gen, meritPump := pump } }

theorem test_commit_case_A : added (withTargets atRest (-5000) 0)
    = [(1, .pump, .addedIdle), (0, .pump, .addedIdle)] := by decide
theorem test_commit_case_B : added (withMerit (withTargets atRest (-5000) 0) [0, 1, 2, 3] [1, 2, 0, 3])
    = [(1, .pump, .addedIdle), (2, .pump, .addedIdle), (3, .gen, .addedShortCircuit)] := by decide
/-- Case C with U3 within its run time. -/
def caseC : State := withTargets (plant (runs .gen 2600) (runs .pump (-2904))
  { runs .gen 2400 with pin := .pinned } (runs .idle 0)) 7001 5000
theorem test_commit_case_C : added caseC = [(0, .gen, .addedSteady), (3, .gen, .addedIdle)] := by decide
theorem test_commit_case_D : added (withMerit (withTargets atRest 300 300) [3, 0, 1, 2] []) = []
    ∧ (withMerit (withTargets atRest 300 300) [3, 0, 1, 2] []).snapshot.commit.removed = [3] := by decide

/-- The setpoints of a loading pass. -/
def setpoints (l : Loading) : List (UnitId × Nat) := l.setpoints.map (fun p => (p.unit, p.value))

theorem test_loading_4_7 : setpoints ((withTargets loaded 7001 7001).snapshot.loading none)
    = [(0, 2401), (2, 2300), (3, 2300)] := by decide
theorem test_loading_4_7_next : setpoints ((withTargets loaded 9001 7201).snapshot.loading none)
    = [(0, 2468), (2, 2358), (3, 2375)] := by decide
theorem test_loading_4_8 : setpoints ((withTargets (plant (runs .pump (-2096)) (runs .pump (-2904)) .reset
    .reset) (-5000) (-5000)).snapshot.loading none) = [(0, 2096)] := by decide
theorem test_loading_4_9 : (caseC.snapshot.loading (some (fun u => (caseC.snapshot.desired
    caseC.snapshot.commit u).1))).deviation = 1704 := by decide

/-! ## Orders and the ramp (section 2.7) -/

/-- Section 2.7 at device time 1000. -/
def ramping : State := withTargets atRest 3000 3000

theorem test_target_starts_the_ramp : (after (.target .u 240 100 (bytes [0x1B, 0x59, 0, 100])) ramping).target
    = { ramping.target with tf := 7001, te := 3000, rate := 100, rampNext := some 1002, orderRef := 1000 } := by
  decide
/-- Section 2.7 at 1010, before the step. -/
def at1010 : State := atTime { withTargets ramping 7001 3800 with
  target := { ramping.target with tf := 7001, te := 3800, rate := 100, rampNext := some 1010 } } 1010
theorem test_ramp_step : (after .rampStep at1010).target
    = { at1010.target with te := 4000, rampNext := some 1012 } := by decide
theorem test_hold_stops_the_timer : (after (.hold .u 240 100 (bytes [1])) (atTime at1010 1011)).target
    = { at1010.target with holdFlag := true, rampNext := none } := by decide
theorem test_hold_off_restarts_it : (after (.hold .u 240 100 (bytes [0])) (atTime { at1010 with
    target := { at1010.target with te := 4000, holdFlag := true, rampNext := none } } 1020)).target
    = { at1010.target with te := 4000, rampNext := some 1022 } := by decide
/-- Section 2.7 at 1030, the expiry taken first. -/
theorem test_order_stale : (after .orderStale (atTime { at1010 with target := { at1010.target with
    te := 4800, orderRef := 1000, rampNext := some 1030 } } 1030)).target
    = { at1010.target with tf := 4800, te := 4800, orderRef := 1000, rampNext := none, staleOrder := true } := by
  decide
theorem test_hold_byte_two_is_malformed :
    (after (.hold .u 240 100 (bytes [2])) ramping).errors.counters.get (kindIndex .frameKindUnknown) = 1 := by
  decide
theorem test_order_from_another_source :
    (after (.target .u 240 101 (bytes [0, 0, 0, 0])) ramping).errors.orderSource = 1 := by decide
theorem test_admit_withdraws : ((after (.admission .u 240 100 (bytes [2, 0])) ramping).tracker 1).admitted = false := by
  decide

/-! ## The head (section 1.7) -/

theorem test_head_5130 : (after (.head .u 240 7 (bytes [0x44, 0x48, 0x30, 0x3E])) State.reset).table.head
    = 5130 := by decide
theorem test_head_below_zero : (after (.head .u 240 7 (bytes [0x0B, 0xB8, 0x0C, 0x1C])) atRest).table.head = 0 := by
  decide
theorem test_head_goes_stale : (after .headStale (atTime atRest 1010)).table.headStale = true
    ∧ (after .headStale (atTime atRest 1009)).table.headStale = false := by decide

/-! ## Classification (section 8.7) -/

/-- The table and the defaults of section 8.7. -/
def sorting : State :=
  { atRest with
    settings := { atRest.settings with defaultU := .forward, defaultD := .drop }
    classes := upd (upd (upd atRest.classes 0 ⟨true, .d, 200, 200, 1, 0, some [19], .copy⟩)
      1 ⟨true, .u, 1, 15, 1, 0, none, .drop⟩) 2 ⟨true, .any, 11, 15, 13, 14, none, .forward⟩ }

theorem test_frame_c_dropped : (after (.frameClassify .u 5 100 64 []) sorting).port.traffic
    = ⟨1, 0, 0, 0, 1, 0⟩ := by decide
theorem test_frame_e_forwarded :
    (after (.frameClassify .u 250 100 200 []) sorting).line.forwardDown = [⟨250, 100, 200, []⟩] := by decide
theorem test_frame_b_broadcast :
    (after (.head .u 255 100 (bytes [0x44, 0x48, 0x30, 0x3E])) sorting).line.forwardDown.length = 1 := by
  decide
theorem test_check_failure : (after (.uFrameCheck (bytes [1, 2, 3])) sorting).errors.counters.get 0 = 1 := by decide

/-! ## Reports, misses and faults (sections 5.12, 5.13, 6.8, 7.10) -/

/-- A reply window open on a station. -/
def polling (s : State) (a : Nat) : State := { s with line := { s.line with activity := .window a true 20 false } }

/-- A machine started to generate at 2000, at device time 2180. -/
def starting : State := atTime (plant .reset .reset .reset { runs .genStart 0 with
  entryTime := 2000, deadline := some 2300, runSince := none, restSince := none, pin := .noPin }) 2180

theorem test_report_ends_the_start : let t := (after (.unitReport 240 4 (bytes [2, 0, 2, 8])) (polling starting 4)).tracker 3
    t.state = .gen ∧ t.runSince = some 2180 ∧ t.pinEnd = some 2780 ∧ t.pin = .pinned ∧ t.rptPower = 520 := by
  decide
theorem test_transition_deadline : let t := (after (.transitionDeadline 3) (atTime starting 2300)).tracker 3
    t.state = .faulted ∧ t.faultCause = .transitionTimeout ∧ t.faultState = some .genStart := by decide
theorem test_deadline_not_due : after (.transitionDeadline 3) (atTime starting 2299) = atTime starting 2299 := by
  decide
theorem test_pin_end : ((after (.pinEnd 3) (atTime (after (.unitReport 240 4 (bytes [2, 0, 2, 8]))
    (polling starting 4)) 2780)).tracker 3).pin = .served := by decide
theorem test_window_closes_and_scan_goes_on :
    (after (.unitReport 240 4 (bytes [2, 0, 2, 8])) (polling starting 4)).line.nextAddr = 5 := by decide

/-- The start of section 6.8 at 5003: U2 spins up with converter 1, which attaches. -/
def attaching : State := atTime { plant (runs .idle 0)
    { runs .pumpSpin 0 with deadline := some 5240, granted := some 0, pin := .noPin } .reset .reset with
  convs := #v[{ ConvRecord.resetAs (.attaching 1) with deadline := some 5010 }, .resetAs .free]
  queue := [⟨0, .startPump, 5000, .interlock, some 1⟩] } 5003

theorem test_attached_report : let t := after (.converterReport 240 9 (bytes [1, 2])) (polling attaching 9)
    (t.conv 0).state = .driving 1 ∧ (t.conv 0).deadline = none ∧ t.line.activity
      = .sending (.order (.unit 1 (.startPump 0))) (mkFrame 2 240 .startPump [1]) := by decide
theorem test_attach_deadline : let t := after (.converterDeadline 0) (atTime attaching 5010)
    (t.conv 0).cause = .attachTimeout ∧ (t.tracker 1).state = .stopping
      ∧ (t.tracker 1).stopOrigin = some .pumpSpin := by decide
theorem test_miss_is_counted :
    (after .replyWindowTimeout (polling attaching 4)).errors.counters.get (kindIndex .pollMiss) = 1 := by decide
theorem test_untracked_station_counts_no_miss :
    (after .replyWindowTimeout (polling attaching 13)).errors = attaching.errors := by decide
theorem test_third_miss_loses_the_machine : let s := polling loaded 4
    ((after .replyWindowTimeout { s with line := { s.line with misses := upd s.line.misses 3 2 } }).tracker 3).state
      = .lost := by decide
theorem test_failed_reply_keeps_the_window :
    (after (.replyWindowReception (bytes [1])) (polling loaded 3)).line.activity = .window 3 true 20 false := by
  decide
theorem test_nil_reply : (after (.nilReply 240 11 []) (polling loaded 11)).line.nextAddr = 12 := by decide
theorem test_stray_reception :
    (after (.strayReception (bytes [1])) loaded).errors.counters.get (kindIndex .dFrameCheck) = 1 := by decide
theorem test_reception_limit : (after .receptionLimit { loaded with
    line := { loaded.line with rx := some .stray } }).line.rx = none := by decide
theorem test_reception_start : (after .receptionStart (polling loaded 3)).line.rx = some .inWindow := by decide

/-! ## Ends of transmission (R133, R137, R144, R165) -/

theorem test_free_line_polls : (after .unitLineTxEnd loaded).line.activity
    = .sending (.poll 1 true) (mkFrame 1 240 .poll []) := by decide
theorem test_poll_opens_its_window : (after .pollTxEnd (after .unitLineTxEnd loaded)).line.activity
    = .window 1 true 20 false := by decide
theorem test_dispatch_frame_leaves : (after .dispatchTxEnd { loaded with
    port := { loaded.port with tx := some ⟨loaded.statusFrame, false⟩ } }).port.tx = none := by decide

/-! ## The solver (chapters 3 and 4, R43, R166) -/

theorem test_full_solve_places_starts : let s := withTargets atRest (-5000) 0
    let t := after .fullSolveComplete { s with solver := { s.solver with phase := .full s.snapshot } }
    t.queue = [⟨0, .startPump, 1000, .interlock, some 1⟩] ∧ (t.tracker 1).state = .pumpSpin
      ∧ (t.tracker 1).granted = some 0 ∧ (t.conv 0).state = .attaching 1 := by decide
theorem test_load_solve_sends_setpoints : let s := withTargets loaded 7001 7001
    (after .loadSolveComplete { s with solver := { s.solver with phase := .load s.snapshot } }).line.orders
      = [⟨.unit 0 (.setpoint 2401), 1000⟩, ⟨.unit 2 (.setpoint 2300), 1000⟩, ⟨.unit 3 (.setpoint 2300), 1000⟩] := by
  decide
theorem test_resolve_timer : let s := { atRest with settings := { atRest.settings with resolvePeriod := 60 } }
    (after .resolveTimerExpiry { s with solver := { s.solver with resolveNext := some 1000 } }).solver.resolveNext
      = some 1060 := by decide
theorem test_status_is_gathered :
    ((after .statusTimerExpiry { atRest with port := { atRest.port with statusNext := 1000 } }).port.tx.map
      (fun x => x.frame.payload.length)) = some 47 := by decide

/-! ## Resets (R63, R151, R178, R179) -/

theorem test_engine_reset_keeps_admission : let t := after (.engineReset 9 1) loaded
    (t.tracker 0).state = .unknown ∧ (t.tracker 0).rptPower = 2401 ∧ (t.tracker 0).admitted = true
      ∧ t.processing = .engineReset := by decide
theorem test_engine_reset_end : (after .engineResetEnd (after (.engineReset 9 1) loaded)).processing = .none := by
  decide
theorem test_line_reset : (after (.lineReset 9 1) loaded).line.activity = .resetting := by decide
theorem test_line_reset_end : (after .lineResetEnd (after (.lineReset 9 1) loaded)).line.activity
    = .sending (.poll 1 true) (mkFrame 1 240 .poll []) := by decide
theorem test_device_reset_waits_for_its_reply : (after (.deviceReset 9 1) loaded).settings = loaded.settings := by
  decide
theorem test_reset_pin : (after .resetPin loaded).settings = Settings.reset
    ∧ (after .resetPin loaded).processing = .deviceReset := by decide
theorem test_reset_pin_release : (after .resetPinRelease (after .resetPin loaded)).inputs.resetPinLow = false := by
  decide
theorem test_device_reset_end : (after .deviceResetEnd (after .resetPinRelease (after .resetPin loaded))).processing
    = .none := by decide

/-! ## The lines (chapter 2 and section 10.6) -/

theorem test_trip_line : let t := after (.tripLineAssert 2) loaded
    (t.tracker 2).state = .faulted ∧ (t.tracker 2).faultCause = .tripLine ∧ t.inputs.tripFlag.get 2 = true := by
  decide
theorem test_trip_line_rises : ((after (.tripLineDeassert 2) (after (.tripLineAssert 2) loaded)).tracker 2).state
    = .faulted := by decide
theorem test_estop : let t := after .emergencyStopEdge (withTargets loaded 7001 7001)
    t.authority = .estop ∧ t.target.tf = 0 ∧ t.target.te = 0 ∧ (t.tracker 3).state = .stopping := by decide
theorem test_estop_release_keeps_the_latch :
    (after .emergencyStopRelease (after .emergencyStopEdge loaded)).target.estopLatch = true := by decide
theorem test_local_line : let t := after .localRemoteAssert (withTargets attaching 7001 7001)
    t.queue = [] ∧ t.authority = .localControl ∧ t.target.tf = 7001 := by decide
/-- Section 2.8: entry to REMOTE takes up the measured power. -/
theorem test_local_line_released : let s := plant (runs .gen 2200) .reset (runs .gen 2100) (runs .gen 2200)
    (after .localRemoteDeassert { s with inputs := { s.inputs with localLevel := true } }).target.tf = 6500 := by
  decide
theorem test_tick : (after .deviceTimeTick loaded).now = 1001
    ∧ (after .deviceTimeTick (atTime loaded 4294967295)).now = 4294967295 := by decide

/-! ## Management (section 9.8) -/

/-- The code and the object of the reply that a request in a state leaves on the dispatch port. -/
def replyTo (c : Instr) (s : State) : List Byte :=
  match (after c s).port.tx with
  | some x => x.frame.payload.drop 2
  | none => []

theorem test_read_descriptor_1 : replyTo (.read 100 1 17 1) State.reset
    = bytes [0, 0, 1, 0, 3, 149, 2, 100, 0, 2, 2] := by decide
theorem test_read_past_the_end : replyTo (.read 100 1 9 9) State.reset = bytes [2, 0] := by decide
/-- Request 3 of section 9.8: station address 15 is out of range. -/
theorem test_settings_bad_value :
    replyTo (.writeSettings 100 3 (bytes [0, 0, 0, 7, 15, 2, 110])) State.reset = bytes [3, 0] := by decide
/-- Request 4 of section 9.8. -/
theorem test_settings_fit_converter_2 :
    ((after (.writeSettings 100 4 (bytes [0, 0, 0, 7, 240, 2, 110])) State.reset).conv 1).state = .unknown := by decide
/-- Request 7 of section 9.8: a FIXED machine with plo and phi apart. -/
theorem test_unit_refused : replyTo (.writeUnit 100 7 2 (unitBytes (some { u2 with
    points := [⟨5000, 2950, 2950⟩, ⟨5400, 2800, 2810⟩] }))) State.reset = bytes [3, 0] := by decide
theorem test_unit_loaded : (after (.writeUnit 100 8 2 (unitBytes (some u2))) State.reset).unit 1 = some u2 := by decide
/-- Request 9 of section 9.8: PERMITTED and SET. -/
theorem test_group : (after (.writeGroup 100 9 2 (bytes [0, 0])) State.reset).table.groups.get 1
    = ⟨.permitted, true⟩ := by decide
/-- Request 11 of section 9.8. -/
theorem test_merit : (after (.writeMerit .pump 100 11 (bytes [4, 2, 1, 3, 4])) State.reset).table.meritPump
    = [1, 0, 2, 3] := by decide
theorem test_class : ((after (.writeClass 100 1 16 (bytes [0, 1, 200, 200, 1, 0, 1, 19, 2])) State.reset).classes.get
    15).kinds = some [19] := by decide
theorem test_severity : (after (.writeSeverity 100 1 6 (bytes [1])) State.reset).severityOf .pollMiss = .minor := by
  decide
theorem test_notice : (after (.writeNotice 100 1 (bytes [100, 0, 1, 1, 1, 2, 3])) State.reset).errors.notice
    = ⟨100, ⟨false, true, true⟩, ⟨1, 2, 3⟩⟩ := by decide
/-- Request 12 of section 9.8: REFUSED, NOT_REMOTE. -/
theorem test_solve_now_refused : replyTo (.solveNow 100 12) State.reset = bytes [5, 4] := by decide
/-- Request 13 of section 9.8. -/
theorem test_authority_set : (after (.authoritySet 100 13 0) State.reset).authority = .remote := by decide
theorem test_clear_counters : (after (.clearCounters 9 1) (after (.uFrameCheck []) loaded)).errors.counters.get 0
    = 0 := by decide
theorem test_clear_capture : (after (.clearCapture 9 1) (after .emergencyStopEdge loaded)).errors.capture = none := by
  decide
theorem test_clear_flags : (after (.clearFlags 9 1) (after .emergencyStopEdge loaded)).errors.classFlags.major
    = false := by decide
/-- Section 10.6 at 7010: CLEAR LINE 3 with the line still low. -/
theorem test_clear_line_keeps_a_held_flag :
    (after (.clearLine 9 1 3) (after (.tripLineAssert 2) loaded)).inputs.tripFlag.get 2 = true := by decide
theorem test_fault_clear_not_at_rest : replyTo (.unitFaultClear 9 1 4) (plant .reset .reset .reset
    (runs .gen 520 |> fun t => { t with state := .faulted, rptMode := .runningGen })) = bytes [5, 1] := by decide
theorem test_converter_clear : ((after (.converterClear 9 1 1) { loaded with
    convs := #v[{ ConvRecord.resetAs .faulted with rptValid := true }, .resetAs .free] }).conv 0).state = .free := by
  decide
theorem test_estop_clear : (after (.estopClear 9 1) (after .emergencyStopRelease (after .emergencyStopEdge
    loaded))).authority = .localControl := by decide
theorem test_scan_start : (after (.scanStart 9 1) { loaded with
    line := { loaded.line with scan := .stopped } }).line.scan = .running := by decide
theorem test_scan_stop_waits : (after (.scanStop 9 1) (polling loaded 3)).line.stopPending = true := by decide
theorem test_scan_step : (after (.scanStep 9 1) { loaded with
    line := { loaded.line with scanMode := .step } }).line.stepCredit = true := by decide
/-- Section 7.10: start 9, end 4, CONTINUOUS, PROTECT. -/
theorem test_scan_config : let l := (after (.scanConfig 9 1 9 4 0 0) loaded).line
    l.scanStart = 9 ∧ l.scanEnd = 4 ∧ l.nextAddr = 9 := by decide

/-- A clearing write is the leading 0 alone, or a record's whole length (R191). -/
theorem test_clearing_write_has_its_length : readUnit (List.replicate 24 0) = some none ∧ readUnit [0, 0] = none := by
  decide
/-- GEN stands first in R81's list of stop origins. -/
theorem test_stop_origin_code : ({ Tracker.reset with state := .stopping, stopOrigin := some .gen }.bytes.drop 10).take 2
    = bytes [1, 0] := by decide
/-- R168: a queued STATUS frame keeps the source that it was made with. -/
theorem test_status_keeps_its_source : ((after .statusTimerExpiry { atRest with
    settings := { atRest.settings with stationAddr := 241 }
    port := { atRest.port with statusNext := 1000, tx := some ⟨⟨200, 12, 201, []⟩, false⟩
                               own := [⟨atRest.statusFrame, false⟩] } }).port.own.map (fun x => x.frame.src))
    = bytes [240] := by decide
/-- R162: an order from port D that is refused is recorded at its source. -/
theorem test_port_d_order_at_its_source : (((after (.writeSeverity 9 1 12 [2]) State.reset).actOn .d ⟨5, 12, kindCode .hold, bytes [1]⟩
    .consume).errors.capture.map (fun c => c.detection.station)) = some 12 := by decide
/-- R171: below two bytes the request number is 0. -/
theorem test_short_request : (after (.frameClassify .u 240 9 (kindCode .mgmtRequest) (bytes [7])) loaded).port.tx.map
    (fun x => x.frame.payload) = some (bytes [0, 0, 1, 0]) := by decide
theorem test_action_with_bytes_behind_it : replyTo (.frameClassify .u 240 9 (kindCode .mgmtRequest)
    (bytes [0, 1, 4, 1, 0, 0])) loaded = bytes [3, 0] := by decide

/-! ## Witnesses: states and operands that meet the hypotheses of the statements -/

/-- A frame to stand in queues. -/
def parcel : Frame := ⟨200, 12, 201, []⟩

/-- A state with its queues filled to given lengths and a frame in transmission on the dispatch port. -/
def filled (own up down : Nat) (p : Protection) : State := { loaded with
  port := { loaded.port with
    tx := some ⟨parcel, false⟩, own := List.replicate own ⟨parcel, false⟩, forwardUp := List.replicate up parcel }
  line := { loaded.line with forwardDown := List.replicate down parcel, protection := p }
  pending := [.orderStale] }

/-- R165: the reply to DEVICE_RESET takes the place of the newest frame of a full own queue. -/
theorem test_device_reset_with_a_full_queue : let t := after (.deviceReset 9 1) (filled 8 0 0 .protect)
    (t.port.own.map (fun x => x.resetReply)).take 2 = [true, false] ∧ t.port.own.length = 8
      ∧ t.errors.counters.get (kindIndex .uOwnOverflow) = 1 := by decide
/-- R164: a dropped reply leaves the request's effects. -/
theorem test_dropped_reply_leaves_its_effects : let t := after (.scanStop 9 1) (filled 8 0 0 .protect)
    t.line.scan = .stopped ∧ t.errors.counters.get (kindIndex .uOwnOverflow) = 1 := by decide

/-- A state whose counters and time stand at their greatest values. -/
def saturated : State := { loaded with
  errors := { loaded.errors with counters := Vector.replicate 18 65535, orderSource := 65535, now := 4294967295 }
  port := { loaded.port with traffic := ⟨65535, 65535, 65535, 65535, 65535, 65535⟩ }
  solver := { loaded.solver with completed := 65535, discarded := 65535 }
  pending := [.rampStep] }

theorem witness_StepTakesTheFrontCommand :
    saturated.pending = Instr.rampStep :: [] := rfl
theorem witness_EmptyQueueLetsTheFreeLineChoose :
    State.reset.pending = [] ∧ loaded.pending = [] ∧ loaded.line.activity ≠ .idle
      ∧ (let s := { State.reset with line := { State.reset.line with scan := .paused } }
        s.pending = [] ∧ s.line.orders = [] ∧ s.line.forwardDown = [] ∧ s.line.scan ≠ .running) := by decide
theorem witness_StepKeepsQueuesBounded :
    (filled 8 16 16 .protect).QueuesBounded ∧ ∃ t, step (filled 8 16 16 .protect) = .next t :=
  ⟨⟨by decide, by decide, by decide, by decide, by decide, by decide⟩, _, rfl⟩
theorem witness_StepKeepsCountersBounded : saturated.CountersBounded ∧ ∃ t, step saturated = .next t :=
  ⟨⟨by decide, by decide, ⟨by decide, by decide, by decide, by decide, by decide, by decide⟩, by decide,
    by decide, by decide, fun h => absurd (by decide) h⟩, _, rfl⟩
theorem witness_StepKeepsTargetsInLimits :
    (withTargets saturated (-20000) 20000).TargetsInLimits
      ∧ ∃ t, step (withTargets saturated (-20000) 20000) = .next t :=
  ⟨⟨by decide, by decide, by decide, by decide⟩, _, rfl⟩
theorem witness_StepKeepsLinksBusy : (filled 8 16 16 .protect).LinksBusy ∧ State.reset.LinksBusy
    ∧ ∃ t, step (filled 8 16 16 .protect) = .next t :=
  ⟨⟨by decide, by decide⟩, ⟨by decide, by decide⟩, _, rfl⟩
theorem witness_StepKeepsPlansOnlyInRemote : State.reset.PlansOnlyInRemote ∧ at1010.PlansOnlyInRemote
    ∧ ∃ t, step { at1010 with pending := [.localRemoteAssert] } = .next t :=
  ⟨⟨by decide, by decide, by decide, by decide, by decide⟩,
    ⟨by decide, by decide, by decide, by decide, by decide⟩, _, rfl⟩

/-- Machine 2 spins up with converter 1, which attaches, machine 1 waits to start, and a trip line comes. -/
def spinning : State := { State.reset with
  trackers := upd (upd State.reset.trackers 1
      { Tracker.reset with state := .pumpSpin, deadline := some 240, granted := some 0 })
    0 { Tracker.reset with state := .idle, restSince := some 0, pin := .served, pinEnd := some 0 }
  convs := upd State.reset.convs 0 { ConvRecord.resetAs (.attaching 1) with deadline := some 10 }
  queue := [⟨0, .startGen, 0, .interlock, some 1⟩]
  target := { State.reset.target with setting := .remote }
  pending := [.tripLineAssert 1] }

theorem witness_StepKeepsRecordsAgree : spinning.RecordsAgree ∧ ∃ t, step spinning = .next t := by
  refine ⟨⟨fun u => ?_, fun c => ?_, by decide, by decide, Or.inl (by decide), ?_, ?_⟩, _, rfl⟩
  · have none : (spinning.tracker u).stopOrigin = none := by revert u; decide
    refine ⟨?_, ?_, fun o h => (by rw [none] at h; cases h), ?_, ?_, ?_, ?_, ?_, ?_, ?_⟩
    all_goals revert u
    all_goals decide
  · constructor
    all_goals revert c
    all_goals decide
  · unfold State.Spins
    decide
  · unfold State.Spins
    decide

set_option maxRecDepth 20000 in
theorem witness_FrameReadsBack : (List.replicate 512 (0 : Byte)).length ≤ Config.maxPayload
    ∧ parseFrame (frameBytes (mkFrame 5 100 .stop [])) = some (mkFrame 5 100 .stop []) := by decide
theorem witness_RecordsReadBackAsWritten :
    readUnit (unitBytes (some u1)) = some (some u1) ∧ u1.Checked ∧ u2.Checked
      ∧ readMerit (meritBytes [0, 1, 2, 3, 4, 5, 6, 7]) = some [0, 1, 2, 3, 4, 5, 6, 7]
      ∧ readMerit [2, 3, 3] = none ∧ readMerit [1, 9] = none
      ∧ (let e : ClassEntry := ⟨true, .any, 0, 255, 255, 0, some [0, 1, 2, 3, 4, 5, 6, 255], .copy⟩
        readClass e.bytes = some e)
      ∧ (let n : NoticeSettings := ⟨254, ⟨true, true, true⟩, ⟨255, 0, 255⟩⟩
        readNotice 240 n.bytes = some n ∧ readNotice 254 n.bytes = none) := by
  unfold UnitRecord.Checked
  decide

/-- Numbers at both ends of the ranges of two and four bytes, whole and signed. -/
theorem witness_FramesOfThePartAreLaidOut : (65535 : Nat) ≤ 65535 ∧ (4294967295 : Nat) ≤ 4294967295
    ∧ (-32768 : Int) ≤ 32767 ∧ (-2147483648 : Int) ≤ 2147483647 := by decide

/-- A full own queue with no notice enabled, with MAJOR alone enabled, and with MINOR enabled as well. -/
theorem witness_FullOwnQueueDropsNotices :
    Config.ownQueueSize ≤ (filled 8 0 0 .protect).port.own.length
      ∧ (filled 8 0 0 .protect).errors.notice.addr = 0
      ∧ (let s := after (.writeNotice 9 1 (bytes [100, 0, 0, 1, 1, 2, 3])) (filled 7 0 0 .protect)
        Config.ownQueueSize ≤ s.port.own.length ∧ perClass s.errors.classFlags (s.severityOf .estop) = false
          ∧ perClass s.errors.notice.enable (s.severityOf .estop) = true ∧ s.errors.notice.addr ≠ 0
          ∧ perClass s.errors.notice.enable (s.severityOf .uOwnOverflow) = false)
      ∧ (let s := after (.writeNotice 9 1 (bytes [100, 0, 1, 1, 1, 2, 3])) (filled 7 0 0 .protect)
        Config.ownQueueSize ≤ s.port.own.length ∧ s.severityOf .uOwnOverflow = .minor
          ∧ perClass s.errors.classFlags .minor = false ∧ perClass s.errors.notice.enable .minor = true) := by
  decide

set_option maxRecDepth 20000 in
theorem witness_DispatchReceptionIsAFrameOrACheckFailure :
    (after .resetPin loaded).processing = .deviceReset
      ∧ parseFrame (frameBytes (mkFrame 5 100 .stop [])) = some (mkFrame 5 100 .stop [])
      ∧ loaded.processing ≠ .deviceReset ∧ parseFrame (bytes [1, 2, 3, 4, 5, 6]) = none
      ∧ (filled 7 16 16 .protect).ownHasPlace := by
  refine ⟨by decide, by decide, by decide, by decide, ?_⟩
  unfold State.ownHasPlace
  decide

/-- An entry whose kind set is ANY takes a frame when its port and addresses do. -/
theorem takes_any {e : ClassEntry} {p : Port} {f : Frame} (hk : e.kinds = none) (h : e.inUse = true
    ∧ (e.port = .any ∨ (e.port = .u ∧ p = .u) ∨ (e.port = .d ∧ p = .d))
    ∧ e.destLo ≤ f.dest.toNat ∧ f.dest.toNat ≤ e.destHi
    ∧ ¬ (e.exclLo ≤ f.dest.toNat ∧ f.dest.toNat ≤ e.exclHi)) : e.Takes p f :=
  ⟨h.1, h.2.1, h.2.2.1, h.2.2.2.1, h.2.2.2.2, fun c hc => by rw [hk] at hc; cases hc⟩

theorem witness_DispatchFrameIsRouted :
    let own : Instr := .target .u 240 100 [0, 0, 0, 0]
    let entry : Instr := .frameClassify .u 15 100 200 []
    own.dispatchFrame = some ⟨240, 100, kindCode .target, [0, 0, 0, 0]⟩
      ∧ entry.dispatchFrame = some ⟨15, 100, 200, []⟩
      ∧ sorting.processing ≠ .deviceReset ∧ (240 : Byte).toNat = sorting.settings.stationAddr
      ∧ (255 : Byte).toNat = Config.broadcast
      ∧ (sorting.classes.get 1).Takes .u ⟨15, 100, 200, []⟩
      ∧ (∀ j < (1 : ClassId), ¬ (sorting.classes.get j).Takes .u ⟨15, 100, 200, []⟩)
      ∧ (∀ k : ClassId, ¬ (State.reset.classes.get k).Takes .u ⟨250, 100, 200, []⟩)
      ∧ ramping.ownHasPlace ∧ ramping.acceptsOrders 100 ∧ holdField [1] ≠ none ∧ admitFields [1, 0] ≠ none
      ∧ headFields [0, 0, 0, 0] ≠ none
      ∧ (200 : Byte) ∉ [kindCode .target, kindCode .hold, kindCode .admission, kindCode .head]
      ∧ (200 : Byte) ≠ kindCode .mgmtRequest := by
  refine ⟨rfl, rfl, by decide, by decide, by decide, takes_any (by decide) (by decide), ?_, ?_,
    by unfold State.ownHasPlace; decide, by unfold State.acceptsOrders; decide, by decide, by decide, by decide,
    by decide, by decide⟩
  · intro j hj h
    have hj' : j.val < 1 := hj
    have : j = 0 := Fin.ext (show j.val = 0 by omega)
    subst this
    have h3 : (15 : Byte).toNat ≥ 200 := h.2.2.1
    exact absurd h3 (by decide)
  · intro k h
    have hu := h.1
    clear h
    revert k
    decide

theorem witness_ForwardedFramesQueueOrAreLost :
    (filled 0 0 15 .protect).line.forwardDown.length < 16
      ∧ 16 ≤ (filled 7 0 16 .protect).line.forwardDown.length ∧ (filled 7 0 16 .protect).port.own.length < 8
      ∧ (filled 0 15 0 .protect).port.tx ≠ none ∧ (filled 0 15 0 .protect).port.forwardUp.length < 16
      ∧ loaded.port.tx = none ∧ loaded.port.own = [] ∧ loaded.port.forwardUp ++ [parcel] = parcel :: []
      ∧ loaded.line.scan ≠ .paused
      ∧ ({ loaded with line := { loaded.line with scan := .paused } } : State).line.scan = .paused
      ∧ ({ filled 1 0 0 .protect with
          port := { (filled 1 0 0 .protect).port with tx := none } } : State).port.own = [⟨parcel, false⟩]
      ∧ 16 ≤ (filled 7 16 0 .protect).port.forwardUp.length ∧ (filled 7 16 0 .protect).line.protection = .protect
      ∧ 16 ≤ (filled 7 16 0 .overwrite).port.forwardUp.length
      ∧ (filled 7 16 0 .overwrite).line.protection = .overwrite := by decide

/-- The part hears a frame for its own address. -/
theorem hears_own {s : State} {payload : List Byte} (h : s.processing ≠ .deviceReset
    ∧ payload.length ≤ Config.maxPayload ∧ (240 : Byte).toNat = s.settings.stationAddr) : s.hears 240 payload := h

/-- Each malformed field, an empty payload, a source that is not the dispatch centre, no dispatch centre, and
another authority than REMOTE. -/
theorem witness_BadPlantFramesChangeNothing :
    (ramping.hears 240 [0, 0, 0x27, 0x10] ∧ ramping.ownHasPlace ∧ 9999 < nat16 0x27 0x10
      ∧ ramping.hears 240 [2] ∧ 1 < (2 : Byte).toNat ∧ ramping.hears 240 [9, 1] ∧ 8 < (9 : Byte).toNat
      ∧ ramping.hears 240 [0x75, 0x31, 0, 0] ∧ 30000 < nat16 0x75 0x31
      ∧ ramping.hears 240 [] ∧ ([] : List Byte).length ≠ 4)
    ∧ ramping.hears 240 [0, 0, 0x27, 0x0F] ∧ nat16 0x27 0x0F ≤ 9999
      ∧ ¬ ramping.acceptsOrders 101 ∧ ¬ State.reset.acceptsOrders 0
      ∧ ¬ (after .localRemoteAssert ramping).acceptsOrders 100
      ∧ ramping.hears 240 [1] ∧ ramping.hears 240 [8, 1] ∧ State.reset.hears 240 [0]
      ∧ (⟨5, 12, kindCode .hold, [2]⟩ : Frame).kind = kindCode .hold := by
  refine ⟨⟨hears_own (by decide), by unfold State.ownHasPlace; decide, by decide, hears_own (by decide),
    by decide, hears_own (by decide), by decide, hears_own (by decide), by decide, hears_own (by decide),
    by decide⟩, hears_own (by decide), by decide, ?_, ?_, ?_, hears_own (by decide), hears_own (by decide),
    hears_own (by decide), rfl⟩ <;> unfold State.acceptsOrders <;> decide

/-- Targets past the greatest limit, at the old T_f with T_e apart, at both, and another one; on port D a target
that is clamped and one that is not. -/
theorem witness_TargetIsTaken :
    ramping.hears 240 [0x4E, 0x21, 0x27, 0x0F] ∧ ramping.acceptsOrders 100 ∧ ramping.ownHasPlace
      ∧ nat16 0x27 0x0F ≤ 9999 ∧ ramping.settings.plantMin ≤ ramping.settings.plantMax
      ∧ max ramping.settings.plantMin (min ramping.settings.plantMax (int16 0x4E 0x21)) ≠ int16 0x4E 0x21
      ∧ max ramping.settings.plantMin (min ramping.settings.plantMax (int16 0x0B 0xB8)) = ramping.target.tf
      ∧ (withTargets ramping 3000 2000).target.te ≠ int16 0x0B 0xB8
      ∧ ramping.target.te = int16 0x0B 0xB8 ∧ int16 0x1B 0x59 ≠ ramping.target.tf
      ∧ (let order (t1 t0 : Byte) := ramping.actOn .u ⟨5, 100, kindCode .target, [t1, t0, 0, 1]⟩ .consume
        (order 0x4E 0x21).target.clamped = true ∧ (order 0x0B 0xB8).target.clamped = false) :=
  ⟨hears_own (by decide), by unfold State.acceptsOrders; decide, by unfold State.ownHasPlace; decide, by decide,
    by decide, by decide, by decide, by decide, by decide, by decide, by decide⟩

theorem witness_HoldAndAdmitAreTaken :
    ramping.hears 240 [1] ∧ ramping.acceptsOrders 100 ∧ (1 : Byte).toNat ≤ 1 ∧ (0 : Byte).toNat ≤ 1
      ∧ ramping.target.holdFlag = false ∧ ramping.target.holdFlag = ((0 : Byte) == 1)
      ∧ (after (.hold .u 240 100 [1]) ramping).target.holdFlag = true
      ∧ (after (.hold .u 240 100 [1]) ramping).acceptsOrders 100
      ∧ ramping.hears 240 [8, 0] ∧ (8 : Byte).toNat = unitNumber 7 ∧ (1 : Byte).toNat = unitNumber 0
      ∧ (ramping.tracker 7).admitted = true
      ∧ ((after (.admission .u 240 100 [8, 0]) ramping).tracker 7).admitted = false :=
  ⟨hears_own (by decide), by unfold State.acceptsOrders; decide, by decide, by decide, by decide, by decide,
    by decide, by unfold State.acceptsOrders; decide, hears_own (by decide), by decide⟩

/-- Levels at their greatest value, with H at the edge of the deadband of 20 around H_ref and past it. -/
theorem witness_HeadIsTaken :
    State.reset.hears 240 [0x75, 0x30, 0x75, 0x1C] ∧ nat16 0x75 0x30 ≤ 30000 ∧ nat16 0x75 0x1C ≤ 30000
      ∧ min 20000 (nat16 0x75 0x30 - nat16 0x75 0x1C)
        ≤ State.reset.solver.headRef + State.reset.settings.headDeadband
      ∧ State.reset.hears 240 [0x75, 0x30, 0x75, 0x1B]
      ∧ State.reset.solver.headRef + State.reset.settings.headDeadband
        < min 20000 (nat16 0x75 0x30 - nat16 0x75 0x1B) :=
  ⟨hears_own (by decide), by decide, by decide, by decide, hears_own (by decide), by decide⟩

/-- The authority leaves REMOTE, enters it, and stays ESTOP. -/
theorem witness_LocalLineMovesTheAuthority :
    ramping.processing ≠ .deviceReset ∧ ramping.settings.plantMin ≤ ramping.settings.plantMax
      ∧ ramping.authority = .remote ∧ (after .localRemoteAssert ramping).authority = .localControl
      ∧ (after .localRemoteDeassert (after .localRemoteAssert ramping)).authority = .remote
      ∧ (after .emergencyStopEdge ramping).target.estopLatch = true := by decide

/-- A busy line in REMOTE and out of it; a free line with no order to send and with one. -/
theorem witness_EmergencyStopStopsThePlant :
    loaded.processing ≠ .deviceReset ∧ loaded.ownHasPlace ∧ loaded.isRemote = true
      ∧ (after .localRemoteAssert loaded).isRemote = false
      ∧ loaded.line.activity ≠ .idle ∧ (after .localRemoteAssert loaded).line.activity ≠ .idle
      ∧ State.reset.line.activity = .idle ∧ State.reset.line.orders = [] ∧ State.reset.estopOrders = []
      ∧ (let s := after .unitLineTxEnd { loaded with line := { loaded.line with scan := .stopped } }
        s.line.activity = .idle ∧ s.line.orders = [] ∧ s.estopOrders = [.unit 0 .stop, .unit 2 .stop, .unit 3 .stop]) :=
  ⟨by decide, by unfold State.ownHasPlace; decide, by decide⟩

theorem witness_ReleasesAndSecondsMoveOneField :
    saturated.processing ≠ .deviceReset ∧ saturated.now ≤ 4294967295
      ∧ (after .resetPin loaded).processing = .deviceReset := by decide

theorem witness_WhatIsNotDueHasNoEffect :
    (atTime at1010 1009).notDue .rampStep ∧ State.reset.notDue .fullSolveComplete
      ∧ (atTime starting 2299).notDue (.transitionDeadline 3) ∧ State.reset.notDue .receptionLimit := by
  refine ⟨?_, Or.inl (by decide), ?_, by unfold State.notDue; decide⟩
  · intro e h
    cases h
    decide
  · intro e h
    cases h
    decide

/-- A step of 200 onto T_f from above and below, and steps that fall short. -/
theorem witness_RampStepMovesTowardTheTarget :
    at1010.processing ≠ .deviceReset ∧ at1010.target.rampNext = some 1010 ∧ 1010 ≤ at1010.now
      ∧ ((withTargets at1010 4000 3800).target.tf - (withTargets at1010 4000 3800).target.te).natAbs
        ≤ at1010.target.rate * at1010.settings.rampInterval
      ∧ at1010.target.rate * at1010.settings.rampInterval < (4001 - 3800 : Int).natAbs
      ∧ (withTargets at1010 4001 3800).target.te < (withTargets at1010 4001 3800).target.tf
      ∧ (withTargets at1010 3599 3800).target.tf < (withTargets at1010 3599 3800).target.te := by decide

theorem witness_OrderHeadPeriodAndPinExpire :
    (atTime ramping 1030).ownHasPlace
      ∧ (let s := atTime ramping 1030
        s.processing ≠ .deviceReset ∧ s.isRemote = true ∧ s.settings.orderTimeout ≠ 0
          ∧ s.target.staleOrder = false ∧ s.target.orderRef + s.settings.orderTimeout ≤ s.now
          ∧ s.table.headStale = false ∧ s.table.headRef + s.settings.headStaleTime ≤ s.now)
      ∧ loaded.processing ≠ .deviceReset ∧ 1000 ≤ loaded.now
      ∧ ({ loaded with solver := { loaded.solver with resolveNext := some 1000 } } : State).solver.resolveNext
        = some 1000
      ∧ (let s := after (.unitReport 240 4 (bytes [2, 0, 2, 8])) (polling starting 4)
        (s.tracker 3).pin = .pinned ∧ (s.tracker 3).pinEnd = some 2780 ∧ 2780 ≤ (atTime s 2780).now) :=
  ⟨by unfold State.ownHasPlace; decide, by decide⟩

theorem witness_StatusIsGatheredOnce :
    loaded.processing ≠ .deviceReset ∧ loaded.port.statusNext ≤ loaded.now ∧ loaded.settings.dispatchAddr ≠ 0
      ∧ (∀ x ∈ loaded.port.own, (x.frame.kind == kindCode .status) = false)
      ∧ (filled 8 0 0 .protect).port.own.length = Config.ownQueueSize
      ∧ (∀ x ∈ (filled 8 0 0 .protect).port.own, (x.frame.kind == kindCode .status) = false)
      ∧ (∃ x ∈ ({ loaded with port := { loaded.port with own := [⟨loaded.statusFrame, false⟩] } } : State).port.own,
          (x.frame.kind == kindCode .status) = true)
      ∧ State.reset.settings.dispatchAddr = 0 ∧ State.reset.port.statusNext ≤ (atTime State.reset 2).now := by
  decide

theorem witness_DeadlinesFaultMachineAndConverter :
    starting.processing ≠ .deviceReset ∧ starting.ownHasPlace ∧ (starting.tracker 3).deadline = some 2300
      ∧ 2300 ≤ (atTime starting 2300).now
      ∧ attaching.processing ≠ .deviceReset ∧ attaching.ownHasPlace ∧ (attaching.conv 0).deadline = some 5010
      ∧ 5010 ≤ (atTime attaching 5010).now ∧ (attaching.conv 0).state = .attaching 1
      ∧ ((after (.tripLineAssert 1) attaching).conv 0).state = .detaching 1 :=
  ⟨by decide, by unfold State.ownHasPlace; decide, by decide, by decide, by decide,
    by unfold State.ownHasPlace; decide, by decide⟩

/-- A window open with no reception in progress is one of the line's windows. -/
theorem inWindow_polling (s : State) (a : Nat) (h : s.processing ≠ .deviceReset) (hr : s.line.rx = none) :
    (polling s a).InWindow a true false := ⟨h, ⟨20, rfl⟩, Or.inl hr⟩

theorem witness_ValidReplyClosesItsWindow :
    (polling loaded 1).InWindow 1 true false ∧ (polling loaded 15).InWindow 15 true false
      ∧ (Instr.nilReply 240 15 []).reception = some (some ⟨240, 15, kindCode .nil, []⟩)
      ∧ (Instr.target .d 240 1 [0]).reception = some (some ⟨240, 1, kindCode .target, [0]⟩)
      ∧ kindCode .target ≠ kindCode .nil ∧ (15 : Byte).toNat = 15 ∧ (1 : Byte).toNat = 1 :=
  ⟨inWindow_polling _ _ (by decide) rfl, inWindow_polling _ _ (by decide) rfl, rfl, rfl, by decide, by decide,
    by decide⟩

/-- Reports at either end of a power's range, one with a machine state past the last, and an empty one. -/
theorem witness_UnitReportMovesItsTracker :
    (polling loaded 8).InWindow (unitNumber 7) true false ∧ (8 : Byte).toNat = unitNumber 7
      ∧ (polling loaded 8).ownHasPlace
      ∧ ReportSays [0, 1, 0xE8, 0x90] ⟨.atRest, true, -6000⟩ ∧ ReportSays [9, 0, 0x17, 0x70] ⟨.tripped, false, 6000⟩
      ∧ (∀ r, ¬ ReportSays [10, 0, 0, 0] r) ∧ ∀ r, ¬ ReportSays [] r := by
  refine ⟨inWindow_polling _ _ (by decide) rfl, by decide, by unfold State.ownHasPlace; decide,
    ⟨0, 1, _, _, rfl, by decide, by decide, by decide, by decide, by decide, by decide⟩,
    ⟨9, 0, _, _, rfl, by decide, by decide, by decide, by decide, by decide, by decide⟩, ?_, ?_⟩
  · rintro r ⟨m, b, p1, p0, h, hm, _⟩
    cases h
    cases hm
  · rintro r ⟨m, b, p1, p0, h, _⟩
    cases h

/-- A tracker and a report for each clause of what a tracker makes of a report. -/
theorem witness_TakesReport :
    (runs .faulted 0).state = .faulted ∧ ¬ (runs .gen 0).state.Learns
      ∧ (runs .gen 0).Accepts ⟨.runningGen, true, 0⟩
      ∧ (runs .lost 0).state.Learns ∧ ¬ (runs .lost 0).Accepts ⟨.stopSeq, true, 0⟩
      ∧ (⟨.stopSeq, true, 0⟩ : UnitReport).Adopts .observed
      ∧ (after (.tripLineAssert 0) loaded).held 0 = true ∧ loaded.held 0 = false
      ∧ (runs .genStart 0).Moves ⟨.runningGen, true, 0⟩ .gen
      ∧ (¬ (runs .gen 0).Accepts ⟨.atRest, true, 0⟩ ∧ ∀ st, ¬ (runs .gen 0).Moves ⟨.atRest, true, 0⟩ st)
      ∧ (⟨.atRest, true, 0⟩ : UnitReport).Adopts .idle := by
  refine ⟨rfl, ?_, Or.inl (by decide), Or.inr (Or.inl rfl), ?_, ?_, by decide, by decide, Or.inl (by decide),
    ⟨?_, ?_⟩, Or.inl ⟨rfl, rfl, rfl⟩⟩
  · rintro (h | h | h) <;> cases h
  · simp [Tracker.Accepts, runs]
  · exact Or.inr (Or.inr (Or.inr (Or.inr ⟨by decide, rfl⟩)))
  · simp [Tracker.Accepts, runs]
  · simp [Tracker.Moves, runs]

theorem witness_ConverterReportMovesItsRecord :
    (polling attaching 9).InWindow (convStation 0) true false ∧ (9 : Byte).toNat = convStation 0
      ∧ (polling attaching 10).InWindow (convStation 1) true false ∧ (polling attaching 9).ownHasPlace
      ∧ (8 : Byte).toNat = unitNumber 7 ∧ (8 : Byte).toNat ≤ 8
      ∧ (∀ a b : Byte, ([0, 4] : List Byte) = [a, b] → ¬ (a = 0 ∧ b = 0
          ∨ (a = 1 ∨ a = 2) ∧ 1 ≤ b.toNat ∧ b.toNat ≤ 8 ∨ a = 3 ∧ b.toNat ≤ 8))
      ∧ (attaching.conv 0).state = .attaching 1 ∧ attaching.isRemote = true
      ∧ (after .localRemoteAssert attaching).isRemote = false := by
  refine ⟨inWindow_polling _ _ (by decide) rfl, by decide, inWindow_polling _ _ (by decide) rfl,
    by unfold State.ownHasPlace; decide, by decide, by decide, ?_, by decide, by decide, by decide⟩
  intro a b h
  cases h
  decide

/-- Each place of a reception, with the window open, past its timeout, and with no window. -/
theorem witness_InvalidReceptionIsCounted :
    loaded.ownHasPlace ∧ (Instr.replyWindowReception [1]).reception = some none
      ∧ ({ loaded with line := { loaded.line with rx := some .stray } } : State).line.rx ≠ none
      ∧ (after .resetPin loaded).processing = .deviceReset ∧ (polling loaded 3).line.rx = none
      ∧ (polling loaded 3).line.activity = .window 3 true 20 false
      ∧ (after .replyWindowTimeout (after .receptionStart (polling loaded 3))).line.activity
        = .window 3 true 20 true
      ∧ (after (.lineReset 9 1) (after .receptionStart loaded)).line.rx = some .uncounted :=
  ⟨by unfold State.ownHasPlace; decide, rfl, by decide, by decide, rfl, rfl, by decide, by decide⟩

/-- A reception in progress; an untracked station; a tracked one below, at and past the limit of 3. -/
theorem witness_ReplyTimeoutCountsAMiss :
    (polling loaded 4).InWindow 4 true false ∧ (polling loaded 4).ownHasPlace
      ∧ (after .receptionStart (polling loaded 4)).line.rx ≠ none
      ∧ (polling loaded 13).tracked 13 = false ∧ (polling loaded 4).tracked 4 = true
      ∧ min ((polling loaded 4).missCount 4 + 1) loaded.settings.missLimit < loaded.settings.missLimit
      ∧ (let s := { polling loaded 4 with line := { (polling loaded 4).line with
          misses := upd (Vector.replicate 15 0) 3 2 } }
        min (s.missCount 4 + 1) s.settings.missLimit = s.settings.missLimit)
      ∧ 4 = unitNumber 3 ∧ (loaded.tracker 3).state ≠ .lost ∧ 9 = convStation 0 ∧ (loaded.conv 0).state ≠ .lost
      ∧ (polling loaded 9).tracked 9 = true :=
  ⟨inWindow_polling _ _ (by decide) rfl, by unfold State.ownHasPlace; decide, by decide⟩

theorem witness_EndOfTransmissionChoosesTheNext :
    loaded.processing ≠ .deviceReset ∧ (∃ f, loaded.line.activity = .sending .forwarded f)
      ∧ (∀ a adv, LineTx.forwarded ≠ .poll a adv) ∧ loaded.line.orders = []
      ∧ (after (.tripLineAssert 0) loaded).line.orders ≠ []
      ∧ (filled 0 16 1 .protect).line.forwardDown ≠ []
      ∧ (after .unitLineTxEnd loaded).line.activity = .sending (.poll 1 true) (mkFrame 1 240 .poll [])
      ∧ (filled 1 1 0 .protect).port.tx = some ⟨parcel, false⟩ ∧ (filled 1 1 0 .protect).port.own ≠ []
      ∧ (filled 0 1 0 .protect).port.own = [] ∧ (filled 0 1 0 .protect).port.forwardUp ≠ [] :=
  ⟨by decide, ⟨_, rfl⟩, fun _ _ h => (by cases h), by decide⟩

theorem witness_OrderReplacesInPlace :
    let s := after (.tripLineAssert 0) loaded
    s.line.orders = [] ++ ⟨.unit 0 .stop, 1000⟩ :: []
      ∧ (QueuedOrder.mk (.unit 0 .stop) 1000).order.station = (Order.unit 0 (.setpoint 1)).station := by
  decide

theorem witness_TripLineFaultsItsMachine :
    loaded.processing ≠ .deviceReset ∧ loaded.ownHasPlace ∧ (loaded.tracker 0).state ≠ .faulted
      ∧ ((after (.tripLineAssert 0) loaded).tracker 0).state = .faulted :=
  ⟨by decide, by unfold State.ownHasPlace; decide, by decide, by decide⟩

/-- No machine holds another back while none starts, spins, primes, changes over or is watched. -/
theorem not_heldBack {s : State} {u : UnitId} (h : ∀ v, (s.tracker v).state ∉
    [TState.genStart, .pumpSpin, .pumpPrime, .changeover, .observed]) (v : UnitId) : ¬ s.HoldsBack v u :=
  fun ⟨_, _, _, _, _, _, _, hv⟩ => h v hv

/-- Queues with entries that the walk starts and holds, in an order that puts one behind the other, and each of
the walk's events. -/
theorem witness_WalkStartsEveryEligibleEntry :
    (attaching.queue.map (fun e => e.unit)).Nodup ∧ attaching.isRemote = true
      ∧ (attaching.tracker 1).state ∈ [TState.genStart, .pumpSpin, .pumpPrime, .changeover, .stopping]
      ∧ ((after (.tripLineAssert 1) attaching).tracker 1).state ≠ (attaching.tracker 1).state
      ∧ (attaching.conv 0).state ≠ .free ∧ (atRest.conv 0).state = .free
      ∧ (after .localRemoteAssert attaching).isRemote = false ∧ atRest.queue = []
      ∧ (∀ e ∈ attaching.queue, ¬ attaching.MayStart e)
      ∧ attaching.MayStart ⟨2, .startGen, 5001, .new, none⟩
      ∧ atRest.MayStart ⟨0, .startPump, 1000, .new, none⟩ ∧ atRest.MayStart ⟨0, .changeover, 1000, .new, none⟩ := by
  refine ⟨by decide, by decide, by decide, by decide, by decide, by decide, by decide, by decide, ?_,
    ⟨?_, fun h => (by cases h)⟩, ⟨not_heldBack (by decide), fun _ => ⟨0, by decide, u1, by decide, by decide⟩⟩,
    ⟨not_heldBack (by decide), fun h => (by cases h)⟩⟩
  · intro e he h
    have hu : e.unit = 0 := by clear h; revert e; decide
    exact h.1 1 (hu ▸ ⟨by decide, u1, u2, by decide, by decide, by decide, by decide, by decide⟩)
  · rintro v ⟨_, r, q, hr, hq, hg, _, hv⟩
    have one : v = 1 := by
      clear hr hq hg
      revert v
      decide
    subst one
    have er : some r = some u3 := hr.symm.trans (by decide)
    have eq : some q = some u2 := hq.symm.trans (by decide)
    cases er
    cases eq
    exact absurd hg (by decide)

/-- Triggers that are taken, discarded and latched, under either policy. -/
theorem witness_FullTriggersAndCompletionsChooseTheSolve :
    atRest.isRemote = true ∧ State.reset.isRemote = false ∧ atRest.solver.phase = .idle
      ∧ atRest.settings.enAvailability = true ∧ atRest.settings.policy = .latch
      ∧ (atRest.fullTrigger .manual).solver.phase = .full atRest.snapshot
      ∧ (atRest.loadTrigger).solver.phase = .load atRest.snapshot
      ∧ (after (.engineReset 9 1) atRest).processing = .engineReset
      ∧ ((atRest.fullTrigger .manual).fullTrigger .manual).solver.fullPending = true
      ∧ (atRest.loadTrigger.loadTrigger).solver.loadPending = true
      ∧ (atRest.loadTrigger.loadTrigger).solver.fullPending = false
      ∧ atRest.solver.loadPending = false := by decide

theorem witness_LoadTriggerByPhase :
    atRest.processing ≠ .engineReset ∧ (after (.engineReset 9 1) atRest).processing = .engineReset
      ∧ (after (.engineReset 9 1) atRest).isRemote = true ∧ atRest.isRemote = true ∧ atRest.solver.phase = .idle
      ∧ (atRest.fullTrigger .manual).solver.phase = .full atRest.snapshot
      ∧ (atRest.loadTrigger).solver.phase = .load atRest.snapshot := by decide

/-- The action of a completed full solve of a state's own snapshot on a machine, and the solve's deviation. -/
def acts (s : State) (u : UnitId) : DiffAction :=
  (s.diffUnit s.snapshot (fun v => (s.snapshot.desired s.snapshot.commit v).1) u).2
def spread (s : State) : Nat :=
  (s.snapshot.loading (some (fun v => (s.snapshot.desired s.snapshot.commit v).1))).deviation.natAbs

/-- The three kinds of free machine, the pinned and the unavailable in completed solves; a solve that places an
entry and one that places none; a deviation past the threshold and one within it. -/
theorem witness_FullSolveCompletes :
    (caseC.fullTrigger .manual).processing ≠ .deviceReset ∧ (caseC.fullTrigger .manual).isRemote = true
    ∧ (caseC.fullTrigger .manual).solver.phase = .full caseC.snapshot
    ∧ caseC.snapshot.pinnedClass 2 = some .gen
    ∧ caseC.snapshot.pinnedClass 7 = none ∧ caseC.snapshot.unavailable 7 = true
    ∧ caseC.snapshot.isFree 0 = true ∧ (∃ p ∈ caseC.snapshot.commit.added, p.unit = 0)
    ∧ caseC.snapshot.isFree 1 = true ∧ (∀ p ∈ caseC.snapshot.commit.added, p.unit ≠ 1)
    ∧ acts (caseC.fullTrigger .manual) 3 = .startGen
    ∧ (let s := (withTargets loaded 7001 7001).fullTrigger .manual
      (∀ u, acts s u ∉ [DiffAction.startGen, .startPump, .changeover, .keep])
        ∧ spread s ≤ s.settings.devThreshold)
    ∧ (caseC.fullTrigger .manual).settings.devThreshold < spread (caseC.fullTrigger .manual)
    ∧ caseC.port.own.length < Config.ownQueueSize := by decide

theorem witness_LoadSolveCompletes :
    (withTargets loaded 7001 7001).loadTrigger.processing ≠ .deviceReset
    ∧ (withTargets loaded 7001 7001).loadTrigger.isRemote = true
    ∧ (withTargets loaded 7001 7001).loadTrigger.solver.phase = .load (withTargets loaded 7001 7001).snapshot
    ∧ loaded.port.own.length < 8
    ∧ (∀ p ∈ ((withTargets loaded 7001 7001).snapshot.loading none).setpoints, (loaded.tracker p.unit).state = p.state
        ∧ (loaded.tracker p.unit).lastSent ≠ some p.value)
    ∧ ((after (.tripLineAssert 0) loaded).tracker 0).state ≠ .gen
    ∧ ((withTargets loaded 7001 7001).snapshot.loading none).deviation.natAbs ≤ loaded.settings.devThreshold
    ∧ loaded.settings.devThreshold < ((withTargets loaded 9501 9501).snapshot.loading none).deviation.natAbs := by
  decide

/-- Machines that the diff leaves out, and one for each row and column of its table. -/
theorem witness_PlanDiffFollowsItsTable :
    (caseC.tracker 0).state.diffClass = (caseC.snapshot.tracker 0).state.diffClass
      ∧ (caseC.tracker 3).state = .idle ∧ (caseC.tracker 0).state = .gen ∧ (caseC.tracker 1).state = .pump
      ∧ caseC.snapshot.isFree 0 = true ∧ caseC.snapshot.isFree 1 = true
      ∧ (∃ r, caseC.snapshot.unit 0 = some r ∧ r.changeover = .permitted)
      ∧ (¬ ∃ r, caseC.snapshot.unit 1 = some r ∧ r.changeover = .permitted)
      ∧ (starting.tracker 3).state.diffClass = some .gen ∧ (attaching.tracker 1).state.diffClass = some .pump
      ∧ (attaching.tracker 2).state.diffClass = none
      ∧ caseC.snapshot.isFree 2 = false ∧ caseC.snapshot.pinnedClass 2 ≠ none ∧ (caseC.tracker 2).state = .gen
      ∧ (let s := after (.admission .u 240 100 [3, 0]) loaded
        (∃ r, s.snapshot.unit 2 = some r) ∧ (s.snapshot.tracker 2).admitted = false
          ∧ s.snapshot.pinnedClass 2 = none ∧ s.snapshot.isFree 2 = false ∧ (s.tracker 2).state = .gen) := by
  refine ⟨by decide, by decide, by decide, by decide, by decide, by decide, ⟨u1, by decide, by decide⟩, ?_,
    by decide, by decide, by decide, by decide, by decide, by decide, ⟨u3, by decide⟩, by decide⟩
  rintro ⟨r, h, k⟩
  have : some r = some u2 := h.symm.trans (by decide)
  cases this
  cases k

/-- Section 3.6, Case B: U3 pumps and U4 generates in group 2, which permits it. -/
theorem witness_CommitmentKeepsWaterwaysApart :
    let n := (withMerit (withTargets atRest (-5000) 0) [0, 1, 2, 3] [1, 2, 0, 3]).snapshot
    (∃ p ∈ n.placed, p.unit = 2 ∧ p.cls = .pump) ∧ (∃ q ∈ n.placed, q.unit = 3 ∧ q.cls = .gen)
      ∧ n.unit 2 = some u3 ∧ n.unit 3 = some u4 ∧ u3.group = u4.group ∧ Cls.pump.opposite .gen = true := by
  decide

theorem witness_CommitmentAddsEligibleMachines :
    (∃ p ∈ caseC.snapshot.commit.added, p.basis = .addedSteady)
      ∧ (∃ p ∈ caseC.snapshot.commit.added, p.basis = .addedIdle)
      ∧ ∃ p ∈ (withMerit (withTargets atRest (-5000) 0) [0, 1, 2, 3] [1, 2, 0, 3]).snapshot.commit.added,
          p.basis = .addedShortCircuit := by decide

/-- A target of zero; one that the walk meets; one past what the plant has; Case D, where a machine leaves; Case A,
which pumps; Case B, where a generator bridges the overshoot of the pumps. -/
theorem witness_WalksMeetTheTarget :
    atRest.snapshot.tf = 0 ∧ 0 < caseC.snapshot.tf ∧ caseC.snapshot.commit.added ≠ []
      ∧ (let n := (withTargets atRest 20000 0).snapshot
        0 < n.tf ∧ n.commit.removed = [] ∧ n.hiOf n.placed < n.tf)
      ∧ (withMerit (withTargets atRest 300 300) [3, 0, 1, 2] []).snapshot.commit.removed = [3]
      ∧ (withTargets atRest (-5000) 0).snapshot.tf < 0
      ∧ (let n := (withMerit (withTargets atRest (-5000) 0) [0, 1, 2, 3] [1, 2, 0, 3]).snapshot
        n.hiOf [⟨1, .pump, .addedIdle⟩, ⟨2, .pump, .addedIdle⟩] < n.tf ∧ (n.groups.get 1).shortCircuit = .permitted
          ∧ n.meritGen = [0, 1, 2] ++ 3 :: []) := by decide

/-- The residual at both ends of the band, and no machine at all. -/
theorem witness_ContributionsMeetTheResidual :
    let l := (withTargets loaded 7001 7001).snapshot.steadySet none
    l ≠ [] ∧ loOfLoaded l ≤ hiOfLoaded l ∧ (∀ m ∈ l, m.band.lo ≤ m.band.hi) ∧ loOfLoaded l ≤ 2200 ∧ 2200 ≤ hiOfLoaded l ∧ loOfLoaded l ≤ 9400
      ∧ 9400 ≤ hiOfLoaded l ∧ loOfLoaded [] ≤ 0 ∧ 0 ≤ hiOfLoaded [] := by decide

theorem witness_PumpBandFollowsTheCharacteristic :
    ([] ++ (3800, 2050) :: (4600, 1906) :: [(5600, 1706)] : List (Nat × Nat)).Pairwise (fun x y => x.1 < y.1)
      ∧ u1.valid = true ∧ u2.valid = true ∧ u2.kind = .fixedSpeed := by decide

/-- The part takes a request: the hypotheses of the statements about management. -/
theorem takes_requests {s : State} (h : s.processing = .none ∧ s.resetAwaiting = false
    ∧ s.line.activity ≠ .resetting ∧ s.settings.stationAddr ≤ 254) : s.takesRequests := h

/-- The own queue has a place, or is full. -/
theorem has_place {s : State} (h : s.port.own.length < Config.ownQueueSize) : s.ownHasPlace := h
theorem no_place {s : State} (h : ¬ s.port.own.length < Config.ownQueueSize) : ¬ s.ownHasPlace := h

/-- A request with one place left in the own queue; each cause of BUSY, with a place and with none. -/
theorem witness_ReadAnswersAndBusyRefuses :
    (filled 7 0 0 .protect).takesRequests ∧ (filled 7 0 0 .protect).ownHasPlace
      ∧ (filled 8 0 0 .protect).takesRequests ∧ ¬ (filled 8 0 0 .protect).ownHasPlace
      ∧ (8 : Byte).toNat = unitNumber 7 ∧ (4 : Byte).toNat = groupNumber 3
      ∧ (16 : Byte).toNat = (15 : ClassId).val + 1 ∧ (18 : Byte).toNat = kindNumber .deviation
      ∧ (2 : Byte).toNat = convNumber 1 ∧ (State.reset.conv 1).state = .absent ∧ (loaded.conv 1).state ≠ .absent
      ∧ 8 < (9 : Byte).toNat ∧ 4 < (5 : Byte).toNat ∧ 16 < (17 : Byte).toNat ∧ 17 < (18 : Byte).toNat
      ∧ (Instr.solveNow 9 1).sender = some (9, 1) ∧ (Instr.solveNow 9 1).wellFormed = true
      ∧ (after (.engineReset 9 1) loaded).busy = true ∧ (after (.engineReset 9 1) loaded).processing ≠ .deviceReset
      ∧ (after (.lineReset 9 1) loaded).busy = true ∧ (after (.deviceReset 9 1) loaded).busy = true
      ∧ ({ filled 8 0 0 .protect with resetAwaiting := true } : State).busy = true :=
  ⟨takes_requests (by decide), has_place (by decide), takes_requests (by decide), no_place (by decide), by decide⟩

/-- Requests of every length, with each kind of request and of object, for machines and converters that are there
and that are not. -/
theorem witness_RequestsAreSpelledOrAnswered :
    (filled 7 0 0 .protect).takesRequests ∧ (filled 7 0 0 .protect).hears 240 [0, 1, 4, 9, 0, 1, 15, 2, 1]
      ∧ State.reset.takesRequests ∧ ([0, 1] : List Byte).length = 2 ∧ ([0, 0] : List Byte).length < 3
      ∧ 4 < (5 : Byte).toNat ∧ 8 < (9 : Byte).toNat ∧ (12 : Byte).toNat < 13 ∧ 16 < (17 : Byte).toNat
      ∧ 12 < (13 : Byte).toNat ∧ (8 : Byte).toNat = unitNumber 7 ∧ (2 : Byte).toNat = convNumber 1
      ∧ (State.reset.conv 1).state = .absent ∧ (loaded.conv 1).state ≠ .absent
      ∧ ([15, 2, 1] : List Byte).length ≠ 4 :=
  ⟨takes_requests (by decide), hears_own (by decide), takes_requests (by decide), by decide⟩

/-- Loads, replacements and clears of unit records, with a pin served by the new time and one not. -/
theorem witness_UnitWriteLoadsReplacesOrClears :
    (filled 6 0 0 .protect).takesRequests ∧ (filled 6 0 0 .protect).ownHasPlace
      ∧ recordFits (unitBytes (some u1)) = true ∧ (8 : Byte).toNat = unitNumber 7
      ∧ readUnit (unitBytes (some u1)) = some (some u1) ∧ readUnit [0] = some none ∧ readUnit [0, 0] = none
      ∧ readUnit [2] = none
      ∧ loaded.unit 0 ≠ none ∧ loaded.unit 7 = none
      ∧ (loaded.tracker 1).state ∈ [TState.idle, .notReady, .unknown, .lost, .faulted]
      ∧ (loaded.tracker 0).state ∉ [TState.idle, .notReady, .unknown, .lost, .faulted]
      ∧ (loaded.tracker 0).pin ≠ .pinned
      ∧ (caseC.tracker 2).pin = .pinned ∧ (caseC.tracker 2).state ∈ [TState.idle, .gen, .pump]
      ∧ (caseC.tracker 2).runSince = some 0 ∧ caseC.now < 0 + 1001 ∧ 0 + 1000 ≤ caseC.now := by
  refine ⟨takes_requests (by decide), has_place (by decide), by decide⟩

theorem witness_TableWritesStoreOrAreRefused :
    (filled 6 0 0 .protect).takesRequests ∧ (filled 6 0 0 .protect).ownHasPlace ∧ recordFits [0, 0] = true
      ∧ (1 : Byte).toNat = groupNumber 0 ∧ (4 : Byte).toNat = groupNumber 3
      ∧ (16 : Byte).toNat = (15 : ClassId).val + 1 ∧ (18 : Byte).toNat = (17 : Fin 18).val + 1
      ∧ readGroup [0, 0] = some ⟨.permitted, true⟩ ∧ readGroup [2, 0] = none ∧ readMerit [1, 9] = none
      ∧ readSeverity [2] = some .major ∧ readSeverity [3] = none
      ∧ 4 < (5 : Byte).toNat ∧ 16 < (17 : Byte).toNat ∧ 18 < (19 : Byte).toNat :=
  ⟨takes_requests (by decide), has_place (by decide), by decide⟩

/-- Records with every field left out, a write-once field twice, a value out of range, and the plant limits; the
fields of a record at their values and one out of its range, a length that is wrong and a failed cross check. -/
theorem witness_SettingsWriteStoresThenApplies :
    (filled 6 0 0 .protect).takesRequests ∧ (filled 6 0 0 .protect).ownHasPlace
      ∧ recordFits [0, 0, 0, 0] = true ∧ writesOnceAgain State.reset.settings [0, 0, 0, 0] = false
      ∧ (readSettings State.reset.settings [0, 0, 0, 0]).isSome = true
      ∧ (settingsMask [0, 0, 0, 24]).isSome = true
      ∧ writesOnceAgain (after (.writeSettings 9 1 [0, 0, 0, 1, 240]) State.reset).settings [0, 0, 0, 1, 240] = true
      ∧ readSettings State.reset.settings [0, 0, 0, 1, 15] = none
      ∧ (readSettings State.reset.settings [0, 0, 0, 24, 0x8A, 0xD0, 0x75, 0x30]).isSome = true
      ∧ readSettings State.reset.settings [0, 0, 0, 24, 0x8A, 0xCF, 0x75, 0x30] = none
      ∧ (∀ i, i < 31 ∧ Nat.testBit 24 i = true → SettingTakes i (if i = 3 then 35536 else 30000))
      ∧ settingsBody 24 (fun i => if i = 3 then 35536 else 30000) = [0x8A, 0xD0, 0x75, 0x30]
      ∧ (State.reset.settings.written 24 (fun i => if i = 3 then 35536 else 30000)).Consistent
      ∧ (3 < 31 ∧ Nat.testBit 24 3 = true) ∧ ¬ SettingTakes 3 35535
      ∧ ([0] : List Byte).length ≠ settingsLength 24 ∧ ([0, 0] : List Byte).length < 4
      ∧ ¬ (State.reset.settings.written 4 (fun _ => 240)).Consistent := by
  refine ⟨takes_requests (by decide), has_place (by decide), by decide, by decide, by decide, by decide, by decide,
    by decide, by decide, by decide, ?_, by decide, by unfold Settings.Consistent; decide, by decide,
    fun h => absurd h.1 (by decide), by decide, by decide, by unfold Settings.Consistent; decide⟩
  rintro i ⟨hi, hb⟩
  have h34 : i = 3 ∨ i = 4 := by
    revert hb
    revert i
    decide
  rcases h34 with rfl | rfl
  · exact ⟨by decide, by decide⟩
  · exact ⟨by decide, by decide⟩

theorem witness_ClearsReturnToResetValues :
    (filled 7 0 0 .protect).takesRequests ∧ (1 : Byte).toNat = unitNumber 0 ∧ (8 : Byte).toNat = unitNumber 7
      ∧ loaded.settings.senses.get 7 = .level ∧ (after (.tripLineAssert 7) loaded).inputs.tripLevel.get 7 = true
      ∧ (after .localRemoteAssert loaded).inputs.localLevel = true ∧ 10 < (11 : Byte).toNat :=
  ⟨takes_requests (by decide), by decide⟩

/-- Each state that an action finds: machine and converter faulted, at rest and not; the latch set and the
line up and down; the authority in both settings. -/
theorem witness_ActionsActOrAreRefused :
    (filled 7 0 0 .protect).takesRequests ∧ loaded.isRemote = true ∧ State.reset.isRemote = false
      ∧ (8 : Byte).toNat = unitNumber 7 ∧ 8 < (9 : Byte).toNat ∧ (2 : Byte).toNat = convNumber 1
      ∧ (loaded.tracker 0).state ≠ .faulted
      ∧ ((after (.tripLineAssert 0) loaded).tracker 0).state = .faulted
      ∧ (after (.tripLineAssert 0) loaded).held 0 = true
      ∧ (after (.tripLineDeassert 0) (after (.tripLineAssert 0) loaded)).held 0 = false
      ∧ (loaded.tracker 0).rptValid = true ∧ (loaded.tracker 0).rptMode = .atRest
      ∧ (State.reset.conv 1).state = .absent ∧ (loaded.conv 1).state = .free
      ∧ ((after (.converterDeadline 0) (atTime attaching 5010)).conv 0).state = .faulted
      ∧ ((after (.converterDeadline 0) (atTime attaching 5010)).conv 0).rptValid = false
      ∧ loaded.target.estopLatch = false ∧ (after .emergencyStopEdge loaded).inputs.estopLevel = true
      ∧ (after .emergencyStopRelease (after .emergencyStopEdge loaded)).inputs.estopLevel = false
      ∧ 1 < (2 : Byte).toNat ∧ (1 : Byte).toNat ≤ 1 ∧ loaded.settings.plantMin ≤ loaded.settings.plantMax
      ∧ loaded.authority = .remote ∧ State.reset.authority = .localControl :=
  ⟨takes_requests (by decide), by decide⟩

theorem witness_ScanActionsSteerTheScan :
    (filled 7 0 0 .protect).takesRequests ∧ loaded.line.scan ≠ .stopped ∧ loaded.line.scanMode ≠ .step
      ∧ (polling loaded 3).line.activity = .window 3 true 20 false
      ∧ (let s := { loaded with line := { loaded.line with scanMode := .step } }
        s.line.scanMode = .step ∧ s.line.stepCredit = false
          ∧ (after (.scanStep 9 1) s).line.stepCredit = true)
      ∧ (after (.scanStop 9 1) loaded).line.scan = .stopped
      ∧ 1 ≤ (1 : Byte).toNat ∧ (15 : Byte).toNat ≤ 15
      ∧ [ScanMode.continuous, .single, .step][(2 : Byte).toNat]? = some .step
      ∧ [Protection.protect, .overwrite][(1 : Byte).toNat]? = some .overwrite
      ∧ 15 < (16 : Byte).toNat ∧ 2 < (3 : Byte).toNat ∧ 1 < (2 : Byte).toNat :=
  ⟨takes_requests (by decide), by decide⟩

theorem witness_LineAndEngineResetBeginAndEnd :
    (filled 7 0 0 .protect).takesRequests ∧ (after (.lineReset 9 1) loaded).processing ≠ .deviceReset
      ∧ (after (.lineReset 9 1) loaded).line.activity = .resetting
      ∧ (after (.engineReset 9 1) loaded).processing = .engineReset
      ∧ (State.fullTrigger (after (.engineReset 9 1) loaded) .manual).solver.fullPending = true
      ∧ (after (.engineReset 9 1) loaded).solver.fullPending = false
      ∧ (State.reset.conv 1).state = .absent ∧ (loaded.conv 1).state ≠ .absent :=
  ⟨takes_requests (by decide), by decide⟩

theorem witness_DeviceResetBeginsAndEnds :
    (filled 7 0 0 .protect).takesRequests ∧ (filled 7 0 0 .protect).ownHasPlace
      ∧ (filled 8 0 0 .protect).takesRequests ∧ ¬ (filled 8 0 0 .protect).ownHasPlace
      ∧ (filled 7 0 0 .protect).port.tx ≠ none ∧ loaded.port.tx = none
      ∧ (Instr.solveNow 9 1).reception = none ∧ (Instr.nilReply 240 1 []).reception ≠ none
      ∧ ((after (.deviceReset 9 1) loaded).port.tx.map (fun x => x.resetReply)) = some true
      ∧ (after .resetPin loaded).processing = .deviceReset
      ∧ (after .resetPinRelease (after .resetPin loaded)).processing = .deviceReset
      ∧ (after .resetPinRelease (after .resetPin loaded)).inputs.resetPinLow = false
      ∧ (∀ u, loaded.inputs.tripLevel.get u = false) ∧ loaded.inputs.estopLevel = false :=
  ⟨takes_requests (by decide), has_place (by decide), takes_requests (by decide), no_place (by decide), by decide⟩

end Sys2Proof.Tests
end

section
/-! PROOFS. What a trigger of a solve reads of the part, how the shared operations of commands run, and what a
detection leaves unchanged: the rules that the proofs of the units, waterways and head statements share. -/
namespace Sys2Proof.Machine

/-! ## What a trigger reads -/

/-- What a trigger of a solve reads is the same in two states (R38, R39, R45 to R48). -/
structure SolverSees (s t : State) : Prop where
  solver : t.solver = s.solver
  remote : t.isRemote = s.isRemote
  settings : t.settings = s.settings
  processing : t.processing = s.processing
  snapshot : t.snapshot = s.snapshot

/-- The blocks that no trigger of a solve reads. -/
abbrev unseenBlocks : List Block := [.convs, .line, .classes, .port, .resetAwaiting, .pending]

theorem SolverSees.of_unchanged {s t : State} (h : Unchanged unseenBlocks s t) : SolverSees s t := by
  have hset : t.settings = s.settings := h .settings (by decide)
  have htab : t.table = s.table := h .table (by decide)
  have htar : t.target = s.target := h .target (by decide)
  have hsol : t.solver = s.solver := h .solver (by decide)
  have htra : t.trackers = s.trackers := h .trackers (by decide)
  have hque : t.queue = s.queue := h .queue (by decide)
  have hinp : t.inputs = s.inputs := h .inputs (by decide)
  have herr : t.errors = s.errors := h .errors (by decide)
  exact ⟨hsol, by simp only [State.isRemote, State.authority, htar, hinp], hset, h .processing (by decide),
    by simp only [State.snapshot, State.now, htab, htar, htra, hque, herr]⟩

theorem SolverSees.trans {s t u : State} (h : SolverSees s t) (k : SolverSees t u) : SolverSees s u :=
  ⟨k.1.trans h.1, k.2.trans h.2, k.3.trans h.3, k.4.trans h.4, k.5.trans h.5⟩

theorem startFull_congr {s t : State} (h : SolverSees s t) : t.startFull.solver = s.startFull.solver := by
  have hn : t.now = s.now := congrArg Snapshot.time h.snapshot
  have hh : t.table.head = s.table.head := congrArg Snapshot.head h.snapshot
  simp only [State.startFull, State.setSolver_solver, h.solver, h.settings, h.snapshot, hn, hh]

theorem discardSolve_only (s : State) : ∃ v, s.discardSolve = s.setSolver v := by
  unfold State.discardSolve
  split
  · exact ⟨s.solver, rfl⟩
  · exact ⟨_, rfl⟩
  · exact ⟨_, rfl⟩

theorem discardSolve_congr {s t : State} (h : SolverSees s t) : SolverSees s.discardSolve t.discardSolve := by
  have hv : t.discardSolve.solver = s.discardSolve.solver := by
    unfold State.discardSolve
    rw [h.solver]
    split <;> simp [h.solver]
  obtain ⟨v, hs⟩ := discardSolve_only s
  obtain ⟨w, ht⟩ := discardSolve_only t
  refine ⟨hv, ?_, ?_, ?_, ?_⟩ <;> rw [hs, ht]
  · exact h.remote
  · exact h.settings
  · exact h.processing
  · exact h.snapshot

theorem takeFullTrigger_congr {s t : State} (h : SolverSees s t) :
    t.takeFullTrigger.solver = s.takeFullTrigger.solver := by
  have restart := startFull_congr (discardSolve_congr h)
  have start := startFull_congr h
  unfold State.takeFullTrigger
  rw [h.processing, h.solver, h.settings]
  split
  · simp
  · split
    · exact start
    · split
      · simp
      · exact restart

/-- The solver after a full trigger depends on what the trigger reads alone. -/
theorem fullTrigger_congr {s t : State} (h : SolverSees s t) (src : TriggerSource) :
    (t.fullTrigger src).solver = (s.fullTrigger src).solver := by
  have he : t.enabled src = s.enabled src := by
    cases src <;> simp only [State.enabled, h.settings]
  unfold State.fullTrigger
  rw [h.remote, he]
  split
  · exact takeFullTrigger_congr h
  · exact h.solver

/-- The solver after a load-only trigger depends on what the trigger reads alone. -/
theorem loadTrigger_congr {s t : State} (h : SolverSees s t) : t.loadTrigger.solver = s.loadTrigger.solver := by
  unfold State.loadTrigger
  rw [h.remote, h.processing, h.solver]
  split
  · split
    · simp
    · split
      · simp only [State.startLoad, State.setSolver_solver, h.solver, h.snapshot]
      · exact h.solver
      · simp
  · exact h.solver

/-- A new head fires HEAD when it lies beyond the deadband around H_ref, on either side (R42). -/
theorem handHead_eq (s : State) : s.handHead =
    if s.solver.headRef + s.settings.headDeadband < s.table.head
      ∨ s.table.head + s.settings.headDeadband < s.solver.headRef then s.fullTrigger .head else s := by
  unfold State.handHead
  exact if_congr (by omega) rfl rfl

/-! ## Commands, and writes as requests -/

theorem whenRunning_of (s : State) (f : State → State) (h : s.processing ≠ .deviceReset) :
    s.whenRunning f = f s := by
  unfold State.whenRunning
  split
  · contradiction
  · rfl

theorem counted_unchanged (s : State) : Unchanged [.port] s s.counted := frame_countTraffic s _

/-- A refused WRITE records TABLE_WRITE_REFUSED and changes nothing else (R171). -/
theorem refuseWrite_refused (s : State) (n : Nat) (r : Reply) : s.WriteRefused (s.refuseWrite n r).1 n :=
  ⟨rfl, detect_records s _⟩

/-- A WRITE that is taken: the object's owner judges it, then the reply is offered (R170, R173). -/
theorem write_answers (s : State) (src : Byte) (req : BitVec 16) (o i : Byte) (record : List Byte)
    (h : s.takesRequests) (hr : recordFits record = true) :
    ∃ t, s.whenRunning (fun x => x.request src req 2 o i record) = t
      ∧ (s.counted.writeObject o.toNat i.toNat record).1.Answers t src req
          (s.counted.writeObject o.toNat i.toNat record).2 :=
  request_answers s src req 2 o i record _ _ h (by simpa [recordFits] using hr) rfl

/-! ## Detections -/

/-- A detection changes the monitor, but not its time, and on the dispatch port the own queue and the frame in
transmission; nothing else, also when the own queue is full. -/
theorem detectChain_only (n : Nat) : ∀ (s : State) (d : Detection), ∃ e own tx,
    s.detectChain n d = (s.setErrors e).setPort { s.port with own := own, tx := tx }
      ∧ e.now = s.errors.now := by
  have noted : ∀ (s : State) (d : Detection), ∃ e, s.note d = s.setErrors e ∧ e.now = s.errors.now :=
    fun s d => ⟨_, rfl, rfl⟩
  induction n with
  | zero =>
    intro s d
    obtain ⟨e, he, hn⟩ := noted s d
    exact ⟨e, s.port.own, s.port.tx, he, hn⟩
  | succ n ih =>
    intro s d
    obtain ⟨e, he, hn⟩ := noted s d
    unfold State.detectChain
    simp only
    split
    · split
      · obtain ⟨e', own, tx, h, hn'⟩ := ih (s.note d) ownOverflow
        rw [he] at h hn'
        exact ⟨e', own, tx, by rw [he, h]; rfl, hn'.trans hn⟩
      · obtain ⟨own, tx, h⟩ := joinOwn_port (s.note d) ⟨(s.note d).alarmFrame d, false⟩
        exact ⟨e, own, tx, by rw [h, he]; rfl, hn⟩
    · exact ⟨e, s.port.own, s.port.tx, he, hn⟩

theorem detectAt_only (s : State) (k : ErrorKind) (n : Nat) : ∃ e own tx,
    s.detectAt k n = (s.setErrors e).setPort { s.port with own := own, tx := tx }
      ∧ e.now = s.errors.now :=
  detectChain_only 3 s _

theorem detectAt_sees (s : State) (k : ErrorKind) (n : Nat) : SolverSees s (s.detectAt k n) := by
  obtain ⟨e, own, tx, h, hn⟩ := detectAt_only s k n
  rw [h]
  refine ⟨rfl, rfl, rfl, rfl, ?_⟩
  simp only [State.snapshot, State.now, State.setPort_errors, State.setErrors_errors, hn]
  rfl

/-- What `Records` says of two states depends on the monitor, the dispatch port and SETTINGS alone. -/
theorem State.Records.congr {s t s' t' : State} {d : Detection} (h : s.Records t d)
    (he : s'.errors = s.errors) (hp : s'.port = s.port) (hs : s'.settings = s.settings)
    (he' : t'.errors = t.errors) (hp' : t'.port = t.port) : s'.Records t' d := by
  obtain ⟨h1, h2, h3⟩ := h
  refine ⟨?_, ?_, ?_⟩
  · simp only [State.severityOf, State.counter, State.now, he, he'] at h1 ⊢
    exact h1
  · simp only [State.outgoing, State.severityOf, State.alarmFrame, State.now, he, hp, hs, hp'] at h2 ⊢
    exact h2
  · rw [hp, hp']
    exact h3

end Sys2Proof.Machine
end

section
/-! PROOFS. The reset values, a valid HEAD, and the expiries of the order, the head, the re-solve timer and a
pin. -/
namespace Sys2Proof.Machine
open Host

/-! ## HEAD (R12, R42) -/

theorem headOf_eq (upper lower : Nat) : headOf upper lower = min 20000 (upper - lower) := by
  unfold headOf clampInt
  split
  · omega
  · split <;> omega

/-- A HEAD frame for the station address with both levels in range is counted and reaches the unit table
(R12, R155, R156). -/
theorem exec_head_taken (s : State) (dest src u1 u0 l1 l0 : Byte) (h : s.hears dest [u1, u0, l1, l0])
    (hu : nat16 u1 u0 ≤ 30000) (hl : nat16 l1 l0 ≤ 30000) :
    exec (.head .u dest src [u1, u0, l1, l0]) s
      = .next (s.counted.takeHead (nat16 u1 u0) (nat16 l1 l0)) := by
  obtain ⟨hp, hfit, hdest⟩ := h
  have hk : kindOf (kindCode .head) = some .head := by decide
  have hf : headFields [u1, u0, l1, l0] = some (nat16 u1 u0, nat16 l1 l0) := if_pos ⟨hu, hl⟩
  have run : exec (.head .u dest src [u1, u0, l1, l0]) s
      = .next (s.receiveOn .u ⟨dest, src, kindCode .head, [u1, u0, l1, l0]⟩) := rfl
  rw [run, State.receiveOn, whenRunning_of s _ hp, State.receiveFrameU, if_pos (by simpa [frameFits] using hfit),
    classify_own s _ hdest]
  simp only [State.takeOwn, State.consumeOwned, hk, State.consumeHead, hf]

/-- Settles O23: the frame reaches the unit table, whose new head is compared with H_ref. -/
theorem headIsTaken : Obligations.HeadIsTaken := by
  intro s dest src u1 u0 l1 l0 h hu hl head
  let tab := { s.table with head := head, headValid := true, headStale := false, headRef := s.now }
  have taken : s.counted.takeHead (nat16 u1 u0) (nat16 l1 l0) = (s.counted.setTable tab).handHead := by
    rw [State.takeHead, headOf_eq]
    rfl
  have frame := frame_handHead (s.counted.setTable tab)
  have sees : SolverSees (s.setTable tab) (s.counted.setTable tab) :=
    .of_unchanged ((frame_setPort (s.setTable tab) s.counted.port).mono (by decide))
  refine ⟨_, exec_head_taken s dest src u1 u0 l1 l0 h hu hl, ?_⟩
  rw [taken]
  have htab : (s.counted.setTable tab).handHead.table = tab := frame .table (by decide)
  refine ⟨htab, fun near1 near2 => ?_, fun far => ?_, frame .port (by decide), ?_⟩
  · have near : ¬ (s.solver.headRef + s.settings.headDeadband < head
        ∨ head + s.settings.headDeadband < s.solver.headRef) := by omega
    rw [handHead_eq]
    exact (congrArg State.solver (if_neg near)).trans rfl
  · rw [htab, ← fullTrigger_congr sees .head, handHead_eq]
    exact congrArg State.solver (if_pos far)
  · exact (((counted_unchanged s).seq (frame_setTable _ tab)).seq frame).mono (by decide)

/-! ## Expiries (R14, R34, R43, R104) -/

theorem staleOrderNow_stales (s : State) (h : s.ownHasPlace) :
    s.staleOrderNow.target = { s.target with tf := s.target.te, rampNext := none, staleOrder := true }
      ∧ s.Records s.staleOrderNow (detection .orderStale 0)
      ∧ Unchanged [.target, .errors, .port] s s.staleOrderNow := by
  let y := s.setTarget { s.target with tf := s.target.te, rampNext := none, staleOrder := true }
  obtain ⟨records, frame⟩ := detect_records y (detection .orderStale 0) h
  exact ⟨frame .target (by decide), records.congr rfl rfl rfl rfl rfl, (frame_setTarget s _).seq frame⟩

theorem staleHeadNow_stales (s : State) (h : s.ownHasPlace) :
    s.staleHeadNow.table = { s.table with headStale := true }
      ∧ s.Records s.staleHeadNow (detection .headStale 0)
      ∧ Unchanged [.table, .errors, .port] s s.staleHeadNow := by
  let y := s.setTable { s.table with headStale := true }
  obtain ⟨records, frame⟩ := detect_records y (detection .headStale 0) h
  exact ⟨frame .table (by decide), records.congr rfl rfl rfl rfl rfl, (frame_setTable s _).seq frame⟩

theorem orderIsStale_iff (s : State) : s.orderIsStale = true ↔ s.isRemote = true ∧ s.settings.orderTimeout ≠ 0
    ∧ s.target.staleOrder = false ∧ s.target.orderRef + s.settings.orderTimeout ≤ s.now := by
  simp [State.orderIsStale, and_assoc]

theorem headIsStale_iff (s : State) : s.headIsStale = true ↔
    s.table.headStale = false ∧ s.table.headRef + s.settings.headStaleTime ≤ s.now := by
  simp [State.headIsStale]

/-- The end of a pin: SERVED, and the PIN trigger on the trackers that hold it (R104). -/
theorem endPin_serves (s : State) (u : UnitId) :
    (s.endPin u).trackers = upd s.trackers u { s.tracker u with pin := .served }
      ∧ (s.endPin u).solver = ((s.setTrackers (s.endPin u).trackers).fullTrigger .pin).solver := by
  have h : (s.endPin u).trackers = upd s.trackers u { s.tracker u with pin := .served } :=
    frame_fullTrigger (s.setTracker u { s.tracker u with pin := .served }) .pin .trackers (by decide)
  exact ⟨h, by rw [h]; rfl⟩

theorem exec_orderStale_due (s : State) (hp : s.processing ≠ .deviceReset) (h : s.orderIsStale = true) :
    exec .orderStale s = .next s.staleOrderNow :=
  congrArg Outcome.next ((whenRunning_of s _ hp).trans (if_pos h))

theorem exec_headStale_due (s : State) (hp : s.processing ≠ .deviceReset) (h : s.headIsStale = true) :
    exec .headStale s = .next s.staleHeadNow :=
  congrArg Outcome.next ((whenRunning_of s _ hp).trans (if_pos h))

theorem exec_resolveTimerExpiry_due (s : State) (e : Time) (hp : s.processing ≠ .deviceReset)
    (h : s.solver.resolveNext = some e) (he : e ≤ s.now) :
    exec .resolveTimerExpiry s = .next (s.resolveExpiry e) := by
  refine congrArg Outcome.next ((whenRunning_of s _ hp).trans ?_)
  simp only [h, if_pos he]

theorem exec_pinEnd_due (s : State) (u : UnitId) (e : Time) (hp : s.processing ≠ .deviceReset)
    (hpin : (s.tracker u).pin = .pinned) (h : (s.tracker u).pinEnd = some e) (he : e ≤ s.now) :
    exec (.pinEnd u) s = .next (s.endPin u) :=
  congrArg Outcome.next ((whenRunning_of s _ hp).trans (if_pos ⟨hpin, by simpa [dueAt, h] using he⟩))

/-- Settles O29: each expiry that is due acts as its rule gives. -/
theorem orderHeadPeriodAndPinExpire : Obligations.OrderHeadPeriodAndPinExpire := by
  refine ⟨fun s hp place => ⟨fun remote timed fresh late => ?_, fun fresh late => ?_⟩,
    fun s e u hp he => ⟨fun next => ?_, fun pinned ends => ?_⟩⟩
  · exact ⟨_, exec_orderStale_due s hp ((orderIsStale_iff s).2 ⟨remote, timed, fresh, late⟩),
      staleOrderNow_stales s place⟩
  · exact ⟨_, exec_headStale_due s hp ((headIsStale_iff s).2 ⟨fresh, late⟩), staleHeadNow_stales s place⟩
  · exact ⟨_, exec_resolveTimerExpiry_due s e hp next he,
      (frame_setSolver s _).trans (frame_fullTrigger _ .period), rfl⟩
  · obtain ⟨htr, hsol⟩ := endPin_serves s u
    refine ⟨_, exec_pinEnd_due s u e hp pinned ends he, ?_, fun v hv => ?_, hsol, frame_endPin s u⟩
    · rw [State.tracker, htr, upd_get_self]
    · rw [State.tracker, htr, upd_get_ne _ _ (Ne.symm hv)]
      rfl

end Sys2Proof.Machine
end

section
/-! PROOFS. The reset values, each block by its own value after device reset. -/
namespace Sys2Proof.Machine

theorem reset_tracker (u : UnitId) : State.reset.tracker u = .reset := by
  simp [State.tracker, State.reset, Vector.get_eq_getElem]

theorem reset_severityOf (k : ErrorKind) : State.reset.severityOf k =
    if k ∈ [ErrorKind.stationLost, .transitionTimeout, .converterFault, .orderStale, .unitTrip, .estop]
      then .major
    else if k ∈ [ErrorKind.uOwnOverflow, .forwardLoss, .reportMismatch, .orderRefused, .headStale,
      .deviation] then .minor
    else .advisory := by
  cases k <;> rfl

/-- Settles O4: every block of the reset state is a closed value, read off field by field. -/
theorem resetLeavesTheResetValues : Obligations.ResetLeavesTheResetValues := by
  refine ⟨by decide, by decide, by decide, by decide, fun u => ?_, rfl, by decide, by decide, by decide,
    by decide, by decide, ⟨by decide, by decide, reset_severityOf, by decide⟩, rfl, rfl, rfl⟩
  rw [reset_tracker]
  decide

end Sys2Proof.Machine
end

section
/-! PROOFS. The table writes: each object's owner stores the whole record or refuses it, and the unit record's
owner loads, replaces or clears it (R3 to R6, R10, R11, R105, R159, R171, R173, R185, R186). -/
namespace Sys2Proof.Machine
open Host

/-! ## What numbers name -/

theorem unitOf_eq_some (n : Nat) (u : UnitId) : unitOf n = some u ↔ n = unitNumber u := by
  unfold unitOf unitNumber
  split
  · simp only [Option.some.injEq, Fin.ext_iff]
    omega
  · simp only [reduceCtorEq, false_iff]
    omega

theorem unitOf_eq_none (n : Nat) : unitOf n = none ↔ ∀ u, n ≠ unitNumber u := by
  simp only [Option.eq_none_iff_forall_ne_some, ne_eq, unitOf_eq_some]

theorem groupOf_eq_some (n : Nat) (g : GroupId) : groupOf n = some g ↔ n = groupNumber g := by
  unfold groupOf groupNumber
  split
  · simp only [Option.some.injEq, Fin.ext_iff]
    omega
  · simp only [reduceCtorEq, false_iff]
    omega

theorem groupOf_eq_none (n : Nat) (h : n = 0 ∨ 4 < n) : groupOf n = none := dif_neg (by omega)

theorem classOf_eq_some (n : Nat) (k : ClassId) (h : n = k.val + 1) : classOf n = some k := by
  subst h
  exact (dif_pos ⟨by omega, by omega⟩).trans (congrArg some (Fin.ext (Nat.add_sub_cancel _ _)))

theorem classOf_eq_none (n : Nat) (h : n = 0 ∨ 16 < n) : classOf n = none := dif_neg (by omega)

/-! ## Writes that store a whole record -/

/-- What a table write does with a record it has read, or not: the stored state with OK, or BAD_VALUE with
TABLE_WRITE_REFUSED (R171, R173). -/
def State.storesOrRefuses (s : State) (station : Nat) (stored : Option State) : State × Reply :=
  match stored with
  | some x => (x, .ok [])
  | none => s.refuseWrite station .badValue

theorem writeGroup_eq (s : State) (g : GroupId) (record : List Byte) :
    s.writeGroup g record = s.storesOrRefuses (groupNumber g) ((readGroup record).map (fun v =>
      s.setTable { s.table with groups := upd s.table.groups g v })) := by
  unfold State.writeGroup
  cases readGroup record <;> rfl

theorem writeMerit_gen_eq (s : State) (record : List Byte) : s.writeMerit .gen record =
    s.storesOrRefuses 0 ((readMerit record).map (fun v => s.setTable { s.table with meritGen := v })) := by
  unfold State.writeMerit
  cases readMerit record <;> rfl

theorem writeMerit_pump_eq (s : State) (record : List Byte) : s.writeMerit .pump record =
    s.storesOrRefuses 0 ((readMerit record).map (fun v => s.setTable { s.table with meritPump := v })) := by
  unfold State.writeMerit
  cases readMerit record <;> rfl

theorem writeClass_eq (s : State) (k : ClassId) (record : List Byte) : s.writeClass k record =
    s.storesOrRefuses (k.val + 1) ((readClass record).map (fun v => s.setClasses (upd s.classes k v))) := by
  unfold State.writeClass
  cases readClass record <;> rfl

theorem writeSeverity_eq (s : State) (i : Fin 18) (record : List Byte) : s.writeSeverity i record =
    s.storesOrRefuses (i.val + 1) ((readSeverity record).map (fun v =>
      s.setErrors { s.errors with severity := upd s.errors.severity i v })) := by
  unfold State.writeSeverity
  cases readSeverity record <;> rfl

theorem writeNotice_eq (s : State) (record : List Byte) : s.writeNotice record =
    s.storesOrRefuses 0 ((readNotice s.settings.stationAddr record).map (fun v =>
      s.setErrors { s.errors with notice := v })) := by
  unfold State.writeNotice
  cases readNotice s.settings.stationAddr record <;> rfl

/-- A write that its object's owner stores or refuses is taken as R171 and R173 give. -/
theorem write_takes (s : State) (src : Byte) (req : BitVec 16) (o i : Byte) (record : List Byte)
    (station : Nat) (stored : Option State) (h : s.takesRequests) (hr : recordFits record = true)
    (hw : s.counted.writeObject o.toNat i.toNat record = s.counted.storesOrRefuses station stored) :
    ∃ t, (.next (s.whenRunning (fun x => x.request src req 2 o i record)) : Outcome State Fault Refusal) = .next t
      ∧ s.counted.TakesWrite t src req station stored := by
  obtain ⟨t, run, answers⟩ := write_answers s src req o i record h hr
  rw [hw] at answers
  refine ⟨t, congrArg Outcome.next run, ?_⟩
  cases stored with
  | some x => exact ⟨fun y hy => by cases hy; exact answers, fun e => absurd e (by simp)⟩
  | none =>
    exact ⟨fun y hy => absurd hy (by simp), fun _ => ⟨_, refuseWrite_refused _ station .badValue, answers⟩⟩

/-- A write of a number that names nothing is answered BAD_INDEX and changes nothing (R171). -/
theorem write_noInstance (s : State) (src : Byte) (req : BitVec 16) (o i : Byte) (record : List Byte)
    (h : s.takesRequests) (hr : recordFits record = true)
    (hw : s.counted.writeObject o.toNat i.toNat record = (s.counted, .badIndex)) :
    ∃ t, (.next (s.whenRunning (fun x => x.request src req 2 o i record)) : Outcome State Fault Refusal) = .next t
      ∧ s.counted.Answers t src req .badIndex := by
  obtain ⟨t, run, answers⟩ := write_answers s src req o i record h hr
  rw [hw] at answers
  exact ⟨t, congrArg Outcome.next run, answers⟩

/-! ## The object that a write names -/

theorem writeObject_unit (s : State) (i : Nat) (record : List Byte) : s.writeObject 2 i record =
    (unitOf i).elim (s, .badIndex) (fun u => s.writeUnit u record) := by
  simp only [State.writeObject]
  cases unitOf i <;> rfl

theorem writeObject_group (s : State) (i : Nat) (record : List Byte) : s.writeObject 3 i record =
    (groupOf i).elim (s, .badIndex) (fun g => s.writeGroup g record) := by
  simp only [State.writeObject]
  cases groupOf i <;> rfl

theorem writeObject_class (s : State) (i : Nat) (record : List Byte) : s.writeObject 6 i record =
    (classOf i).elim (s, .badIndex) (fun k => s.writeClass k record) := by
  simp only [State.writeObject]
  cases classOf i <;> rfl

theorem writeObject_severity (s : State) (i : Fin 18) (n : Nat) (record : List Byte) (h : n = i.val + 1) :
    s.writeObject 7 n record = s.writeSeverity i record := by
  subst h
  exact dif_pos ⟨by omega, by omega⟩

theorem writeObject_severity_none (s : State) (n : Nat) (record : List Byte) (h : n = 0 ∨ 18 < n) :
    s.writeObject 7 n record = (s, .badIndex) := dif_neg (by omega)

/-- Settles O54: each write is one request whose owner stores the record or refuses it. -/
theorem tableWritesStoreOrAreRefused : Obligations.TableWritesStoreOrAreRefused := by
  intro s src req index record h hr takes noInstance
  have zero_or {n : Nat} (k : index = 0 ∨ n < index.toNat) : index.toNat = 0 ∨ n < index.toNat :=
    k.imp_left (fun e => by rw [e]; rfl)
  refine ⟨fun g hg => ?_, ?_, ?_, fun k hk => ?_, fun i hi => ?_, ?_, fun k => ?_, fun k => ?_, fun k => ?_⟩
  · refine write_takes s src req 3 index record _ _ h hr ((writeObject_group _ _ _).trans ?_)
    rw [(groupOf_eq_some _ g).2 hg]
    exact writeGroup_eq s.counted g record
  · exact write_takes s src req 4 0 record _ _ h hr (writeMerit_gen_eq s.counted record)
  · exact write_takes s src req 5 0 record _ _ h hr (writeMerit_pump_eq s.counted record)
  · refine write_takes s src req 6 index record _ _ h hr ((writeObject_class _ _ _).trans ?_)
    rw [classOf_eq_some _ k hk]
    exact writeClass_eq s.counted k record
  · exact write_takes s src req 7 index record _ _ h hr
      ((writeObject_severity _ i _ _ hi).trans (writeSeverity_eq s.counted i record))
  · exact write_takes s src req 8 0 record _ _ h hr (writeNotice_eq s.counted record)
  · refine write_noInstance s src req 3 index record h hr ((writeObject_group _ _ _).trans ?_)
    rw [groupOf_eq_none _ (zero_or k)]
    rfl
  · refine write_noInstance s src req 6 index record h hr ((writeObject_class _ _ _).trans ?_)
    rw [classOf_eq_none _ (zero_or k)]
    rfl
  · exact write_noInstance s src req 7 index record h hr (writeObject_severity_none _ _ _ (zero_or k))

end Sys2Proof.Machine
end

section
/-! PROOFS. WRITE of UNIT: the load, the replacement with what it does to a pin, and the clearing write
(R3 to R6, R105). -/
namespace Sys2Proof.Machine
open Host

/-! ## The parts of a unit write -/

theorem setMiss_eq (s : State) (a n : Nat) :
    s.setMiss a n = s.setLine { s.line with misses := s.missesWith a n } := by
  unfold State.setMiss State.missesWith
  cases stationIndex a <;> rfl

theorem clearable_iff (st : TState) :
    st.clearable = true ↔ st ∈ [TState.idle, .notReady, .unknown, .lost, .faulted] := by
  cases st <;> decide

/-- The pin time of a present record: its rest time in IDLE, its run time in GEN and PUMP, none elsewhere (R103). -/
theorem pinTime_some (r : UnitRecord) (st : TState) : pinTime (some r) st =
    if st ∈ [TState.idle, .gen, .pump] then some (if st = .idle then r.minRest else r.minRun) else none := by
  cases st <;> rfl

/-- A replacement leaves a machine that is not pinned, or whose pin time is the same (R105). -/
theorem repin_same (s : State) (u : UnitId) (old new : UnitRecord)
    (h : (s.tracker u).pin ≠ .pinned ∨ (if (s.tracker u).state = .idle then old.minRest else old.minRun)
      = if (s.tracker u).state = .idle then new.minRest else new.minRun) : s.repin u old new = s := by
  refine if_neg (fun k => ?_)
  obtain ⟨pinned, differs⟩ := k
  rcases h with free | same
  · exact free pinned
  · rw [pinTime_some, pinTime_some, same] at differs
    exact differs rfl

/-- A replacement that changes the pin time moves the pin's end, and a pin that is past it is served (R105). -/
theorem repin_moves (s : State) (u : UnitId) (old new : UnitRecord) (a : Time)
    (pinned : (s.tracker u).pin = .pinned)
    (differs : (if (s.tracker u).state = .idle then old.minRest else old.minRun)
      ≠ if (s.tracker u).state = .idle then new.minRest else new.minRun)
    (hst : (s.tracker u).state ∈ [TState.idle, .gen, .pump])
    (since : (if (s.tracker u).state = .idle then (s.tracker u).restSince else (s.tracker u).runSince) = some a) :
    let time := if (s.tracker u).state = .idle then new.minRest else new.minRun
    let moved := s.setTracker u { s.tracker u with pinEnd := some (a + time) }
    s.repin u old new = if a + time ≤ s.now then moved.endPin u else moved := by
  intro time moved
  have before := (pinTime_some old (s.tracker u).state).trans (if_pos hst)
  have after := (pinTime_some new (s.tracker u).state).trans (if_pos hst)
  unfold State.repin
  simp only [since, before, after]
  exact if_pos ⟨pinned, fun e => differs (Option.some.inj e)⟩

theorem endPin_others (s : State) (u w : UnitId) (hw : w ≠ u) : (s.endPin u).tracker w = s.tracker w := by
  rw [State.tracker, (endPin_serves s u).1, upd_get_ne _ _ (Ne.symm hw)]
  rfl

theorem repin_others (s : State) (u w : UnitId) (old new : UnitRecord) (hw : w ≠ u) :
    (s.repin u old new).tracker w = s.tracker w := by
  have moved : ∀ t, (s.setTracker u t).tracker w = s.tracker w := fun t => upd_get_ne _ _ (Ne.symm hw)
  unfold State.repin
  simp only
  split
  · split
    · split
      · exact (endPin_others _ u w hw).trans (moved _)
      · exact moved _
    · rfl
  · rfl

theorem readUnit_valid (record : List Byte) (r : UnitRecord) (h : readUnit record = some (some r)) :
    r.valid = true := by
  unfold readUnit at h
  split at h
  · split at h
    · simp [keepIf] at h
    · split at h
      · split at h
        · rename_i hv
          cases h
          exact hv
        · cases h
      · cases h
    · cases h
  · cases h

/-! ## The cases of a unit write -/

theorem writeUnit_bad (s : State) (u : UnitId) (record : List Byte) (h : readUnit record = none) :
    s.writeUnit u record = s.refuseWrite (unitNumber u) .badValue := by
  simp only [State.writeUnit, h]

theorem writeUnit_clear (s : State) (u : UnitId) (record : List Byte) (h : readUnit record = some none) :
    s.writeUnit u record = s.clearUnit u := by
  simp only [State.writeUnit, h]

theorem writeUnit_present (s : State) (u : UnitId) (record : List Byte) (v : UnitRecord)
    (h : readUnit record = some (some v)) : s.writeUnit u record = (s.writePresent u v, .ok []) := by
  simp only [State.writeUnit, h]

theorem clearUnit_absent (s : State) (u : UnitId) (h : s.unit u = none) : s.clearUnit u = (s, .ok []) := by
  simp only [State.clearUnit, h]

theorem clearUnit_inUse (s : State) (u : UnitId) (h : s.unit u ≠ none)
    (hst : (s.tracker u).state ∉ [TState.idle, .notReady, .unknown, .lost, .faulted]) :
    s.clearUnit u = s.refuseWrite (unitNumber u) (.refused .inUse) := by
  obtain ⟨old, hold⟩ := Option.ne_none_iff_exists'.1 h
  simp only [State.clearUnit, hold]
  exact if_neg (mt (clearable_iff _).1 hst)

theorem clearUnit_clears (s : State) (u : UnitId) (h : s.unit u ≠ none)
    (hst : (s.tracker u).state ∈ [TState.idle, .notReady, .unknown, .lost, .faulted]) :
    s.clearUnit u = ((((s.setTable { s.table with units := upd s.table.units u none }).setQueue
      (s.queue.filter (fun e => e.unit != u))).setLine { s.line with misses := s.missesWith (unitNumber u) 0
        }).fullTrigger .availability, .ok []) := by
  obtain ⟨old, hold⟩ := Option.ne_none_iff_exists'.1 h
  simp only [State.clearUnit, hold, setMiss_eq]
  exact if_pos ((clearable_iff _).2 hst)

theorem writePresent_loads (s : State) (u : UnitId) (v : UnitRecord) (h : s.unit u = none) :
    s.writePresent u v = ((s.setTable { s.table with units := upd s.table.units u (some v) }).setLine
      { s.line with misses := s.missesWith (unitNumber u) 0 }).fullTrigger .availability := by
  simp only [State.writePresent, h, setMiss_eq]
  rfl

theorem writePresent_replaces (s : State) (u : UnitId) (v old : UnitRecord) (h : s.unit u = some old) :
    s.writePresent u v
      = (s.setTable { s.table with units := upd s.table.units u (some v) }).repin u old v := by
  simp only [State.writePresent, h]
  rfl

/-! ## What a unit write leaves -/

/-- What a clearing write of a PRESENT record leaves (R6; log entries 26 and 28). -/
theorem clearUnit_leaves (s : State) (u : UnitId) (h : s.unit u ≠ none)
    (hst : (s.tracker u).state ∈ [TState.idle, .notReady, .unknown, .lost, .faulted]) :
    let x := (s.counted.clearUnit u).1
    (s.counted.clearUnit u).2 = .ok [] ∧ x.table = { s.table with units := upd s.table.units u none }
      ∧ x.line = { s.line with misses := s.missesWith (unitNumber u) 0 }
      ∧ x.queue = s.queue.filter (fun e => e.unit != u)
      ∧ x.solver = (((s.setTable x.table).setQueue x.queue).fullTrigger .availability).solver
      ∧ Unchanged [.table, .line, .queue, .solver] s.counted x := by
  rw [clearUnit_clears s.counted u h hst]
  intro x
  let y := ((s.counted.setTable { s.table with units := upd s.table.units u none }).setQueue
    (s.queue.filter (fun e => e.unit != u))).setLine { s.line with misses := s.missesWith (unitNumber u) 0 }
  have frame : Unchanged [.solver] y x := frame_fullTrigger y .availability
  have htab : x.table = y.table := frame .table (by decide)
  have hque : x.queue = y.queue := frame .queue (by decide)
  refine ⟨rfl, htab, frame .line (by decide), hque, ?_, ?_⟩
  · rw [htab, hque]
    exact fullTrigger_congr (s := (s.setTable y.table).setQueue y.queue) (t := y) ⟨rfl, rfl, rfl, rfl, rfl⟩ _
  · exact ((((frame_setTable s.counted _).seq (frame_setQueue _ _)).seq (frame_setLine _ _)).seq frame).mono
      (by decide)

/-- What the load of an ABSENT record leaves (R4; log entry 26). -/
theorem writePresent_load_leaves (s : State) (u : UnitId) (v : UnitRecord) (h : s.unit u = none) :
    let x := s.counted.writePresent u v
    x.table = { s.table with units := upd s.table.units u (some v) }
      ∧ x.line = { s.line with misses := s.missesWith (unitNumber u) 0 }
      ∧ x.solver = ((s.setTable x.table).fullTrigger .availability).solver
      ∧ Unchanged [.table, .line, .solver] s.counted x := by
  rw [writePresent_loads s.counted u v h]
  intro x
  let y := (s.counted.setTable { s.table with units := upd s.table.units u (some v) }).setLine
    { s.line with misses := s.missesWith (unitNumber u) 0 }
  have frame : Unchanged [.solver] y x := frame_fullTrigger y .availability
  have htab : x.table = y.table := frame .table (by decide)
  refine ⟨htab, frame .line (by decide), ?_, ?_⟩
  · rw [htab]
    exact fullTrigger_congr (s := s.setTable y.table) (t := y) ⟨rfl, rfl, rfl, rfl, rfl⟩ _
  · exact (((frame_setTable s.counted _).seq (frame_setLine _ _)).seq frame).mono (by decide)

/-- What the replacement of a PRESENT record leaves beside the pin (R5). -/
theorem writePresent_replace_leaves (s : State) (u : UnitId) (v old : UnitRecord) (h : s.unit u = some old) :
    let x := s.counted.writePresent u v
    x.table = { s.table with units := upd s.table.units u (some v) }
      ∧ Unchanged [.table, .trackers, .solver] s.counted x ∧ ∀ w, w ≠ u → x.tracker w = s.tracker w := by
  rw [writePresent_replaces s.counted u v old h]
  intro x
  have frame := frame_repin (s.counted.setTable { s.table with units := upd s.table.units u (some v) }) u old v
  exact ⟨frame .table (by decide), ((frame_setTable s.counted _).seq frame).mono (by decide),
    fun w hw => repin_others _ u w old v hw⟩

/-- What a replacement that changes the time of a pin leaves of it (R105). -/
theorem writePresent_repins (s : State) (u : UnitId) (v old : UnitRecord) (a : Time) (h : s.unit u = some old)
    (pinned : (s.tracker u).pin = .pinned)
    (differs : (if (s.tracker u).state = .idle then old.minRest else old.minRun)
      ≠ if (s.tracker u).state = .idle then v.minRest else v.minRun)
    (hst : (s.tracker u).state ∈ [TState.idle, .gen, .pump])
    (since : (if (s.tracker u).state = .idle then (s.tracker u).restSince else (s.tracker u).runSince) = some a) :
    let x := s.counted.writePresent u v
    let time := if (s.tracker u).state = .idle then v.minRest else v.minRun
    (s.now < a + time → x.solver = s.solver
        ∧ x.tracker u = { s.tracker u with pinEnd := some (a + time) })
      ∧ (a + time ≤ s.now →
        x.tracker u = { s.tracker u with pinEnd := some (a + time), pin := .served }
        ∧ x.solver = (((s.setTable x.table).setTrackers x.trackers).fullTrigger .pin).solver) := by
  intro x time
  let stored := s.counted.setTable { s.table with units := upd s.table.units u (some v) }
  let moved := stored.setTracker u { s.tracker u with pinEnd := some (a + time) }
  have hx : x = if a + time ≤ s.now then moved.endPin u else moved :=
    (writePresent_replaces s.counted u v old h).trans
      (repin_moves stored u old v a pinned differs hst since)
  have htab : x.table = stored.table := (writePresent_replace_leaves s u v old h).1
  have hmoved : moved.tracker u = { s.tracker u with pinEnd := some (a + time) } := upd_get_self _ _ _
  constructor
  · intro early
    rw [if_neg (Nat.not_le.2 early)] at hx
    rw [hx]
    exact ⟨rfl, hmoved⟩
  · intro late
    rw [if_pos late] at hx
    obtain ⟨trackers, solver⟩ := endPin_serves moved u
    rw [htab, hx]
    have sees : SolverSees ((s.setTable stored.table).setTrackers (moved.endPin u).trackers)
        (moved.setTrackers (moved.endPin u).trackers) := ⟨rfl, rfl, rfl, rfl, rfl⟩
    refine ⟨?_, solver.trans (fullTrigger_congr sees _)⟩
    rw [State.tracker, trackers, upd_get_self, hmoved]

/-- Settles O53: the record read decides whether the write is refused, clears, loads or replaces. -/
theorem unitWriteLoadsReplacesOrClears : Obligations.UnitWriteLoadsReplacesOrClears := by
  intro s src req index record h hr
  obtain ⟨t, run, answers⟩ := write_answers s src req 2 index record h hr
  have owner : s.counted.writeObject (2 : Byte).toNat index.toNat record
      = (unitOf index.toNat).elim (s.counted, .badIndex) (fun u => s.counted.writeUnit u record) :=
    writeObject_unit _ _ _
  refine ⟨_, t, _, congrArg Outcome.next run, answers, fun absent => ?_, fun u hu => ?_⟩
  · rw [owner, (unitOf_eq_none _).2 absent]
    exact ⟨rfl, rfl⟩
  rw [owner, (unitOf_eq_some _ u).2 hu]
  refine ⟨fun bad => ?_, fun clear absent => ?_, fun clear present => ⟨fun used => ?_, fun free => ?_⟩,
    fun v load => ?_⟩
  · rw [Option.elim_some, writeUnit_bad _ u record bad]
    exact ⟨rfl, refuseWrite_refused _ _ _⟩
  · rw [Option.elim_some, writeUnit_clear _ u record clear, clearUnit_absent s.counted u absent]
    exact ⟨rfl, rfl⟩
  · rw [Option.elim_some, writeUnit_clear _ u record clear, clearUnit_inUse s.counted u present used]
    exact ⟨rfl, refuseWrite_refused _ _ _⟩
  · rw [Option.elim_some, writeUnit_clear _ u record clear]
    exact clearUnit_leaves s u present free
  · rw [Option.elim_some, writeUnit_present _ u record v load]
    have htab : (s.counted.writePresent u v).table
        = { s.table with units := upd s.table.units u (some v) } := by
      cases hold : s.unit u with
      | none => exact (writePresent_load_leaves s u v hold).1
      | some old => exact (writePresent_replace_leaves s u v old hold).1
    refine ⟨rfl, readUnit_valid record v load, htab, fun absent => (writePresent_load_leaves s u v absent).2,
      fun old present => ?_⟩
    obtain ⟨_, frame, others⟩ := writePresent_replace_leaves s u v old present
    refine ⟨frame, others, fun same => ?_, fun pinned differs hst a since =>
      writePresent_repins s u v old a present pinned differs hst since⟩
    have kept := (writePresent_replaces s.counted u v old present).trans (repin_same _ u old v same)
    exact ⟨congrArg (fun y => y.tracker u) kept, (congrArg State.solver kept).trans rfl⟩

end Sys2Proof.Machine
end

section
/-! PROOFS. The checks of a unit record as one proposition, and the pump characteristic: its rounding rule, its
value between neighbours, and its order under a wider column (R2, R3, R16, R17). -/
namespace Sys2Proof.Machine

/-! ## The checks of a unit record (R2, R3) -/

theorem headsRise_iff : ∀ l : List Breakpoint,
    headsRise l = true ↔ (l.map (fun b => b.h)).Pairwise (· < ·)
  | [] => by simp [headsRise]
  | [b] => by simp [headsRise]
  | a :: b :: rest => by
    have ih := headsRise_iff (b :: rest)
    rw [List.map_cons, List.map_cons, List.pairwise_cons_cons_iff_of_trans, ← List.map_cons, ← ih]
    simp [headsRise]

theorem breakpoint_valid_iff (b : Breakpoint) (k : UnitKind) : b.valid k = true ↔
    b.h ≤ 20000 ∧ b.plo ≤ b.phi ∧ b.phi ≤ 6000 ∧ (k = .fixedSpeed → b.plo = b.phi) := by
  cases k <;> simp [Breakpoint.valid, and_assoc]

theorem unitRecord_valid_iff (r : UnitRecord) : r.valid = true ↔ r.Checked := by
  simp only [UnitRecord.valid, UnitRecord.Checked, within, Bool.and_eq_true, decide_eq_true_eq, List.all_eq_true,
    breakpoint_valid_iff, headsRise_iff, List.forall_mem_cons, List.not_mem_nil, false_imp_iff, implies_true,
    and_true, and_assoc]

/-! ## The rounding rule (R16) -/

/-- A rounded quotient lies within half of the divisor, and a half is rounded away from zero. -/
theorem roundDiv_near (num : Int) (den : Nat) (h : 0 < den) :
    2 * |roundDiv num den * den - num| ≤ den
      ∧ (2 * |roundDiv num den * den - num| = den → |num| < |roundDiv num den * den|) := by
  have low := Nat.div_mul_le_self (2 * num.natAbs + den) (2 * den)
  have high := Nat.lt_div_mul_add (a := 2 * num.natAbs + den) (b := 2 * den) (by omega)
  unfold roundDiv
  generalize (2 * num.natAbs + den) / (2 * den) = q at low high
  have hq : q * (2 * den) = 2 * (q * den) := by ring
  rw [hq] at low high
  have hz : ((q * den : Nat) : Int) = (q : Int) * den := by push_cast; ring
  generalize q * den = m at low high hz
  simp only [Int.abs_eq_natAbs]
  split
  · rw [← hz]
    omega
  · rw [neg_mul, ← hz]
    omega

/-! ## Between two neighbours -/

theorem evalColumn_low (H : Nat) (a : Nat × Nat) (l : List (Nat × Nat)) (h : H ≤ a.1) :
    evalColumn H (a :: l) = a.2 := by
  cases l with
  | nil => rfl
  | cons b rest => exact if_pos h

theorem evalColumn_between (H : Nat) (a b : Nat × Nat) (l : List (Nat × Nat)) (ha : a.1 < H) (hb : H < b.1) :
    evalColumn H (a :: b :: l) = a.2 + roundDiv (((b.2 : Int) - a.2) * ((H : Int) - a.1)) (b.1 - a.1) :=
  (if_neg (Nat.not_le.2 ha)).trans (if_pos hb)

theorem evalColumn_high (H : Nat) (a b : Nat × Nat) (l : List (Nat × Nat)) (ha : a.1 < H) (hb : b.1 ≤ H) :
    evalColumn H (a :: b :: l) = evalColumn H (b :: l) :=
  (if_neg (Nat.not_le.2 ha)).trans (if_neg (Nat.not_lt.2 hb))

/-- Breakpoints below the head do not matter. -/
theorem evalColumn_skip (H : Nat) (a : Nat × Nat) (l : List (Nat × Nat)) (h : a.1 ≤ H) :
    ∀ pre : List (Nat × Nat), (pre ++ a :: l).Pairwise (fun x y => x.1 < y.1) →
      evalColumn H (pre ++ a :: l) = evalColumn H (a :: l)
  | [], _ => rfl
  | [x], rise => by
    have hx : x.1 < a.1 := List.rel_of_pairwise_cons rise (by simp)
    exact evalColumn_high H x a l (by omega) h
  | x :: y :: pre, rise => by
    have hx : x.1 < y.1 := List.rel_of_pairwise_cons rise (by simp)
    have hy : y.1 < a.1 := List.rel_of_pairwise_cons rise.of_cons (by simp)
    exact (evalColumn_high H x y _ (by omega) (by omega)).trans (evalColumn_skip H a l h (y :: pre) rise.of_cons)

/-- At a head between two neighbours the value is their straight line, rounded (R16). -/
theorem evalColumn_near (H : Nat) (a b : Nat × Nat) (l : List (Nat × Nat)) (hab : a.1 < b.1) (ha : a.1 ≤ H)
    (hb : H ≤ b.1) :
    let v := evalColumn H (a :: b :: l)
    let den : Int := b.1 - a.1
    let num : Int := ((b.2 : Int) - a.2) * ((H : Int) - a.1)
    2 * |(v - a.2) * den - num| ≤ den ∧ (2 * |(v - a.2) * den - num| = den → |num| < |(v - a.2) * den|) := by
  intro v den num
  have exact_line (e : (v - a.2) * den = num) : 2 * |(v - a.2) * den - num| ≤ den
      ∧ (2 * |(v - a.2) * den - num| = den → |num| < |(v - a.2) * den|) := by
    rw [e, sub_self, abs_zero]
    omega
  rcases Nat.eq_or_lt_of_le ha with atA | aboveA
  · refine exact_line ?_
    have hv : v = a.2 := evalColumn_low H a _ (by omega)
    simp [hv, num, atA]
  rcases Nat.eq_or_lt_of_le hb with atB | belowB
  · refine exact_line ?_
    have hv : v = b.2 := (evalColumn_high H a b l aboveA (by omega)).trans (evalColumn_low H b l (by omega))
    simp only [hv, num, den, atB]
  · have hv : v - a.2 = roundDiv num (b.1 - a.1) := by
      rw [show v = _ from evalColumn_between H a b l aboveA belowB]
      ring
    have hden : den = ((b.1 - a.1 : Nat) : Int) := by omega
    rw [hv, hden]
    exact roundDiv_near num (b.1 - a.1) (by omega)

/-! ## A wider column is nowhere below -/

/-- Two lines over the same heads that do not cross are rounded to values that do not cross. -/
theorem line_mono (p p' q q' t d : Int) (v w : Int) (hp : p ≤ q) (hp' : p' ≤ q') (ht : 0 < t) (hd : t < d)
    (hne : p < q ∨ p' < q') (hv : 2 * |v * d - (p' - p) * t| ≤ d) (hw : 2 * |w * d - (q' - q) * t| ≤ d) :
    p + v ≤ q + w := by
  have apart : 1 ≤ (q - p) * (d - t) + (q' - p') * t := by
    have left : 0 ≤ (q - p) * (d - t) := mul_nonneg (by omega) (by omega)
    have right : 0 ≤ (q' - p') * t := mul_nonneg (by omega) (by omega)
    rcases hne with h | h
    · have : 0 < (q - p) * (d - t) := mul_pos (by omega) (by omega)
      omega
    · have : 0 < (q' - p') * t := mul_pos (by omega) (by omega)
      omega
  by_contra hlt
  have gap : d ≤ (p + v - (q + w)) * d := le_mul_of_one_le_left (by omega) (by omega)
  have above := le_abs_self (v * d - (p' - p) * t)
  have below := neg_abs_le (w * d - (q' - q) * t)
  linarith

theorem evalColumn_mono (H : Nat) (f g : Breakpoint → Nat) : ∀ l : List Breakpoint, (∀ b ∈ l, f b ≤ g b) →
    evalColumn H (l.map (fun b => (b.h, f b))) ≤ evalColumn H (l.map (fun b => (b.h, g b)))
  | [], _ => le_rfl
  | [b], h => by
    have hb := h b (by simp)
    simpa [evalColumn] using hb
  | a :: b :: rest, h => by
    have ha := h a (by simp)
    have hb := h b (by simp)
    have ih := evalColumn_mono H f g (b :: rest) (fun x hx => h x (List.mem_cons_of_mem _ hx))
    simp only [List.map_cons] at ih ⊢
    rcases Nat.lt_or_ge a.h H with above | below
    · rcases Nat.lt_or_ge H b.h with between | beyond
      · rw [evalColumn_between H _ _ _ above between, evalColumn_between H _ _ _ above between]
        by_cases same : f a = g a ∧ f b = g b
        · rw [same.1, same.2]
        · have hf := (roundDiv_near (((f b : Int) - f a) * ((H : Int) - a.h)) (b.h - a.h) (by omega)).1
          have hg := (roundDiv_near (((g b : Int) - g a) * ((H : Int) - a.h)) (b.h - a.h) (by omega)).1
          exact line_mono _ (f b) _ (g b) _ _ _ _ (by omega) (by omega) (by omega) (by omega) (by omega) hf hg
      · rw [evalColumn_high H _ _ _ above beyond, evalColumn_high H _ _ _ above beyond]
        exact ih
    · rw [evalColumn_low H _ _ below, evalColumn_low H _ _ below]
      exact Int.ofNat_le.2 ha

/-- A column of one value has that value at every head. -/
theorem evalColumn_const (H c : Nat) : ∀ l : List Breakpoint, l ≠ [] →
    evalColumn H (l.map (fun b => (b.h, c))) = c
  | [], h => absurd rfl h
  | [b], _ => rfl
  | a :: b :: rest, _ => by
    have ih := evalColumn_const H c (b :: rest) (by simp)
    simp only [List.map_cons] at ih ⊢
    rcases Nat.lt_or_ge a.h H with above | below
    · rcases Nat.lt_or_ge H b.h with between | beyond
      · rw [evalColumn_between H _ _ _ above between]
        simp [roundDiv, Nat.div_eq_of_lt (show b.h - a.h < 2 * (b.h - a.h) by omega)]
      · rw [evalColumn_high H _ _ _ above beyond]
        exact ih
    · exact evalColumn_low H _ _ below

/-! ## The pump band of a valid record (R2, R17) -/

theorem pump_column_bounds (r : UnitRecord) (H : Nat) (h : r.valid = true) :
    0 ≤ r.plo H ∧ r.plo H ≤ r.phi H ∧ r.phi H ≤ 6000 := by
  obtain ⟨_, _, _, two, _, points, _⟩ := (unitRecord_valid_iff r).1 h
  have some_point : r.points ≠ [] := by
    intro e
    simp [e] at two
  have zero := evalColumn_const H 0 r.points some_point
  have most := evalColumn_const H 6000 r.points some_point
  refine ⟨?_, evalColumn_mono H _ _ r.points (fun b hb => ?_), ?_⟩
  · exact zero.symm.trans_le (evalColumn_mono H (fun _ => 0) Breakpoint.plo r.points (fun b _ => Nat.zero_le _))
  · obtain ⟨_, order, _⟩ := points b hb
    exact order
  · refine (evalColumn_mono H Breakpoint.phi (fun _ => 6000) r.points (fun b hb => ?_)).trans_eq most
    obtain ⟨_, _, top, _⟩ := points b hb
    exact top

theorem fixed_columns_agree (r : UnitRecord) (H : Nat) (h : r.valid = true) (fixed : r.kind = .fixedSpeed) :
    r.plo H = r.phi H := by
  obtain ⟨_, _, _, _, _, points, _⟩ := (unitRecord_valid_iff r).1 h
  have columns : r.points.map (fun b => (b.h, b.plo)) = r.points.map (fun b => (b.h, b.phi)) := by
    refine List.map_congr_left (fun b hb => ?_)
    obtain ⟨_, _, _, same⟩ := points b hb
    rw [same fixed]
  exact congrArg (evalColumn H) columns

/-- Settles O50: the head picks the pair of neighbours, and the columns of a valid record do not cross. -/
theorem pumpBandFollowsTheCharacteristic : Obligations.PumpBandFollowsTheCharacteristic := by
  refine ⟨fun H pre post a b rise => ?_, fun r H => ?_, fun r H hr => ?_⟩
  · intro v den num
    have hab : a.1 < b.1 := List.rel_of_pairwise_cons (List.pairwise_append.1 rise).2.1 (by simp)
    have skipped : a.1 ≤ H → v = evalColumn H (a :: b :: post) := fun h => evalColumn_skip H a _ h pre rise
    refine ⟨fun first low => ?_, fun last high => ?_, fun ha hb => ?_⟩
    · subst first
      exact evalColumn_low H a _ low
    · subst last
      exact (skipped (by omega)).trans (evalColumn_high H a b [] (by omega) high)
    · rw [skipped ha]
      exact evalColumn_near H a b post hab ha hb
  · refine ⟨rfl, rfl, rfl, rfl, rfl, rfl, ?_, rfl⟩
    simp only [UnitRecord.band, Band.width]
    ring
  · obtain ⟨low, order, high⟩ := pump_column_bounds r H hr
    refine ⟨low, order, high, fun fixed => ?_⟩
    have same := fixed_columns_agree r H hr fixed
    refine ⟨same, ?_⟩
    simp only [UnitRecord.band, Band.width, same, sub_self]

end Sys2Proof.Machine
end

section
/-! PROOFS. Records as bytes: the codes and the fields of two bytes read back, object by object, up to a WRITE
takes exactly the record that a READ returns (R3, R7, R9 to R11, R159, R171, R172, R185, R186). -/
namespace Sys2Proof.Machine

/-! ## Codes and fields -/

/-- The code of a listed value names that value (R190). -/
theorem ofCode_idxOf {α : Type} [DecidableEq α] (values : List α) (x : α) (mem : x ∈ values)
    (short : values.length ≤ 256) : ofCode values (byteOf (values.idxOf x)) = some x := by
  have hlt := List.idxOf_lt_length_of_mem mem
  rw [ofCode, byteOf_toNat _ (by omega)]
  exact List.getElem?_idxOf mem

/-- A byte that names a value is its code (R190). -/
theorem codeOf_of_ofCode {α : Type} [DecidableEq α] {values : List α} {code : Byte} {x : α}
    (h : ofCode values code = some x) (nodup : values.Nodup) : codeOf values x = [code] := by
  obtain ⟨hlt, rfl⟩ := List.getElem?_eq_some_iff.1 h
  rw [codeOf, nodup.idxOf_getElem, byteOf_toNat_eq]

theorem ofFlag_flag (x : Bool) : ofFlag (if x then 1 else 0) = some x := by
  cases x <;> rfl

theorem flagByte_of_ofFlag {b : Byte} {x : Bool} (h : ofFlag b = some x) : flagByte x = [b] := by
  have code : flagByte x = codeOf [false, true] x := by cases x <;> rfl
  rw [code, codeOf_of_ofCode h (by decide)]

theorem num8_toNat (b : Byte) : num8 b.toNat = [b] := congrArg (fun x => [x]) (byteOf_toNat_eq b)

theorem byte_le (b : Byte) : b.toNat ≤ 255 := Nat.le_of_lt_succ b.isLt

theorem be16_of_nat16 (hi lo : Byte) : be16 (nat16 hi lo) = [hi, lo] := by
  have := hi.isLt
  have := lo.isLt
  have top : nat16 hi lo / 256 = hi.toNat := by
    simp only [nat16]
    omega
  have low : byteOf (nat16 hi lo) = lo :=
    BitVec.eq_of_toNat_eq (by simp only [nat16, byteOf, BitVec.toNat_ofNat]; omega)
  rw [be16, top, low, byteOf_toNat_eq]

theorem distinct_iff {α : Type} [DecidableEq α] : ∀ l : List α, distinct l = true ↔ l.Nodup
  | [] => by simp [distinct]
  | x :: rest => by simp [distinct, distinct_iff rest]

/-! ## GROUP and SEVERITY (R9, R10, R185) -/

theorem readGroup_bytes (g : GroupRecord) : readGroup g.bytes = some g := by
  have sc := ofCode_idxOf [Permission.permitted, .notPermitted] g.shortCircuit
    (by cases g.shortCircuit <;> decide) (by decide)
  have il := ofCode_idxOf [true, false] g.interlock (by cases g.interlock <;> decide) (by decide)
  simp only [GroupRecord.bytes, Permission.bytes, codeOf, List.cons_append, List.nil_append, readGroup, sc, il]

theorem bytes_of_readGroup (record : List Byte) (g : GroupRecord) (h : readGroup record = some g) :
    record = g.bytes := by
  unfold readGroup at h
  split at h
  · split at h
    · rename_i sc il p i hp hi
      cases h
      rw [GroupRecord.bytes, Permission.bytes, codeOf_of_ofCode hp (by decide), codeOf_of_ofCode hi (by decide)]
      rfl
    · cases h
  · cases h

theorem readSeverity_bytes (v : Severity) : readSeverity [byteOf (severityCode v)] = some v := by
  cases v <;> rfl

theorem bytes_of_readSeverity (record : List Byte) (v : Severity) (h : readSeverity record = some v) :
    record = [byteOf (severityCode v)] := by
  unfold readSeverity at h
  split at h
  · have code : codeOf [Severity.advisory, .minor, .major] v = [byteOf (severityCode v)] := by cases v <;> rfl
    rw [← code, codeOf_of_ofCode h (by decide)]
  · cases h

/-! ## Merit lists (R11) -/

theorem unitOf_unitNumber (u : UnitId) : unitOf (unitNumber u) = some u := (unitOf_eq_some _ u).2 rfl

theorem unitNumber_le (u : UnitId) : unitNumber u ≤ 8 := u.isLt

theorem readUnits_bytes : ∀ l : List UnitId, readUnits (l.flatMap (fun u => num8 (unitNumber u))) = some l
  | [] => rfl
  | u :: rest => by
    have hu : unitOf (byteOf (unitNumber u)).toNat = some u := by
      rw [byteOf_toNat _ (by have := unitNumber_le u; omega), unitOf_unitNumber]
    simp only [List.flatMap_cons, num8, List.cons_append, List.nil_append, readUnits, hu]
    have ih := readUnits_bytes rest
    simp only [num8] at ih
    rw [ih]

theorem bytes_of_readUnits : ∀ (record : List Byte) (l : List UnitId), readUnits record = some l →
    record = l.flatMap (fun u => num8 (unitNumber u)) ∧ record.length = l.length
  | [], l, h => by
    cases h
    exact ⟨rfl, rfl⟩
  | b :: rest, l, h => by
    unfold readUnits at h
    split at h
    · rename_i u us hu hus
      cases h
      obtain ⟨bytes, length⟩ := bytes_of_readUnits rest us hus
      rw [unitOf_eq_some] at hu
      refine ⟨?_, congrArg (· + 1) length⟩
      rw [List.flatMap_cons, ← hu, num8_toNat, ← bytes]
      rfl
    · cases h

theorem flatMap_num8_length {α : Type} (f : α → Nat) (l : List α) :
    (l.flatMap (fun x => num8 (f x))).length = l.length := by
  simp [num8]

theorem readMerit_bytes (l : List UnitId) (h : l.Nodup) : readMerit (meritBytes l) = some l := by
  have short : l.length ≤ 8 := by simpa using h.length_le_card
  have count := byteOf_toNat l.length (by omega)
  have len := flatMap_num8_length unitNumber l
  simp only [meritBytes, counted, readMerit, count, len, short, and_self, if_true, readUnits_bytes,
    (distinct_iff l).2 h]

theorem bytes_of_readMerit (record : List Byte) (l : List UnitId) (h : readMerit record = some l) :
    record = meritBytes l ∧ l.Nodup := by
  unfold readMerit at h
  split at h
  · split at h
    · rename_i n rest hlen
      split at h
      · rename_i us hus
        split at h
        · rename_i hd
          cases h
          obtain ⟨bytes, length⟩ := bytes_of_readUnits rest l hus
          refine ⟨?_, (distinct_iff l).1 hd⟩
          rw [meritBytes, counted, ← bytes, ← length, hlen.2, byteOf_toNat_eq]
        · cases h
      · cases h
    · cases h
  · cases h

/-! ## CLASS (R159) -/

theorem map_toNat_bytes (l : List Nat) (h : ∀ k ∈ l, k ≤ 255) : (l.flatMap num8).map (·.toNat) = l := by
  induction l with
  | nil => rfl
  | cons k rest ih =>
    obtain ⟨hk, hrest⟩ := List.forall_mem_cons.1 h
    simp only [List.flatMap_cons, num8, List.cons_append, List.nil_append, List.map_cons, List.cons.injEq]
    exact ⟨byteOf_toNat k (by omega), ih hrest⟩

theorem bytes_map_toNat (l : List Byte) : (l.map (·.toNat)).flatMap num8 = l := by
  induction l with
  | nil => rfl
  | cons b rest ih => rw [List.map_cons, List.flatMap_cons, num8_toNat, ih]; rfl

theorem readClass_bytes (e : ClassEntry) (h : e.Checked) : readClass e.bytes = some e := by
  obtain ⟨dlo, dhi, elo, ehi, kinds⟩ := h
  have listed : (e.kinds.getD []).length ≤ 8 ∧ (e.kinds.getD []).Nodup ∧ (∀ k ∈ e.kinds.getD [], k ≤ 255)
      ∧ (if (e.kinds.getD []).length = 0 then none else some (e.kinds.getD [])) = e.kinds := by
    cases hk : e.kinds with
    | none => simp
    | some l =>
      obtain ⟨some_kind, short, nodup, small⟩ := kinds l hk
      exact ⟨short, nodup, small, if_neg (by simpa using some_kind)⟩
  obtain ⟨short, nodup, small, back⟩ := listed
  have iu := ofCode_idxOf [true, false] e.inUse (by cases e.inUse <;> decide) (by decide)
  have po := ofCode_idxOf [EntryPort.u, .d, .any] e.port (by cases e.port <;> decide) (by decide)
  have ac := ofCode_idxOf actionValues e.action (by cases e.action <;> decide) (by decide)
  have count := byteOf_toNat (e.kinds.getD []).length (by omega)
  have len : ((e.kinds.getD []).flatMap num8).length = (e.kinds.getD []).length :=
    flatMap_num8_length id _
  have codes := map_toNat_bytes _ small
  have last := List.drop_left' (l₂ := [byteOf (actionValues.idxOf e.action)]) len
  have first := List.take_left' (l₂ := [byteOf (actionValues.idxOf e.action)]) len
  simp only [ClassEntry.bytes, Action.bytes, counted, codeOf, num8, List.cons_append, List.nil_append, readClass,
    iu, po, ac, count, last, first, codes, short, (distinct_iff _).2 nodup, and_self, if_true, back,
    byteOf_toNat e.destLo (by omega), byteOf_toNat e.destHi (by omega), byteOf_toNat e.exclLo (by omega),
    byteOf_toNat e.exclHi (by omega)]

theorem bytes_of_readClass (record : List Byte) (e : ClassEntry) (h : readClass record = some e) :
    record = e.bytes ∧ e.Checked := by
  unfold readClass at h
  split at h
  · split at h
    · rename_i iu p dlo dhi elo ehi n rest _ _ _ inUse port a hiu hp hlast
      split at h
      · rename_i action ha
        simp only at h
        split at h
        · rename_i hk
          obtain ⟨short, nodup⟩ := hk
          cases h
          have length : (rest.take n.toNat).length = n.toNat := by
            have := congrArg List.length hlast
            simp only [List.length_drop, List.length_singleton] at this
            rw [List.length_take]
            omega
          have split_rest := List.take_append_drop n.toNat rest
          rw [hlast] at split_rest
          have listed : (if n.toNat = 0 then none else some ((rest.take n.toNat).map (·.toNat))).getD []
              = (rest.take n.toNat).map (·.toNat) := by
            split
            · rename_i zero
              simp [zero]
            · rfl
          refine ⟨?_, byte_le _, byte_le _, byte_le _, byte_le _, fun l hl => ?_⟩
          · simp only [ClassEntry.bytes, Action.bytes, counted, listed, bytes_map_toNat, List.length_map, length,
              codeOf_of_ofCode hiu (by decide), codeOf_of_ofCode hp (by decide), codeOf_of_ofCode ha (by decide),
              num8_toNat, byteOf_toNat_eq, List.cons_append, List.nil_append, split_rest]
          · split at hl
            · cases hl
            · rename_i some_kind
              cases hl
              refine ⟨?_, ?_, (distinct_iff _).1 nodup, fun k hk => ?_⟩
              · intro nil
                have := congrArg List.length nil
                rw [List.length_map, length] at this
                exact some_kind this
              · rw [List.length_map, length]
                exact short
              · obtain ⟨b, _, rfl⟩ := List.mem_map.1 hk
                exact byte_le b
        · cases h
      · cases h
    · cases h
  · cases h

/-! ## NOTICE (R186) -/

theorem readNotice_bytes (station : Nat) (n : NoticeSettings) (addr : n.addr ≤ 254)
    (free : n.addr = 0 ∨ n.addr ≠ station) (c1 : n.code.advisory ≤ 255) (c2 : n.code.minor ≤ 255)
    (c3 : n.code.major ≤ 255) : readNotice station n.bytes = some n := by
  simp only [NoticeSettings.bytes, num8, flagByte, List.cons_append, List.nil_append, readNotice, ofFlag_flag,
    byteOf_toNat n.addr (by omega), byteOf_toNat n.code.advisory (by omega), byteOf_toNat n.code.minor (by omega),
    byteOf_toNat n.code.major (by omega)]
  exact if_pos ⟨addr, free⟩

theorem bytes_of_readNotice (station : Nat) (record : List Byte) (n : NoticeSettings)
    (h : readNotice station record = some n) :
    record = n.bytes ∧ n.addr ≤ 254 ∧ (n.addr = 0 ∨ n.addr ≠ station)
      ∧ n.code.advisory ≤ 255 ∧ n.code.minor ≤ 255 ∧ n.code.major ≤ 255 := by
  unfold readNotice at h
  split at h
  · split at h
    · rename_i a e1 e2 e3 c1 c2 c3 _ _ _ x1 x2 x3 h1 h2 h3
      split at h
      · rename_i hk
        cases h
        refine ⟨?_, hk.1, hk.2, byte_le _, byte_le _, byte_le _⟩
        simp only [NoticeSettings.bytes, num8_toNat, flagByte_of_ofFlag h1, flagByte_of_ofFlag h2,
          flagByte_of_ofFlag h3, List.cons_append, List.nil_append]
      · cases h
    · cases h
  · cases h

end Sys2Proof.Machine
end

section
/-! PROOFS. The UNIT record as bytes: breakpoints, the fields before and behind them, and the record as a whole
(R1 to R3, R7). -/
namespace Sys2Proof.Machine

/-! ## Breakpoints (R2) -/

/-- A breakpoint's values stand in two bytes each. -/
def Breakpoint.Fits (b : Breakpoint) : Prop := b.h < 65536 ∧ b.plo < 65536 ∧ b.phi < 65536

theorem points_length (l : List Breakpoint) : (l.flatMap Breakpoint.bytes).length = 6 * l.length := by
  induction l with
  | nil => rfl
  | cons b rest ih =>
    rw [List.flatMap_cons, List.length_append, ih, List.length_cons]
    simp only [Breakpoint.bytes, be16, List.length_append, List.length_cons, List.length_nil]
    omega

theorem readPoints_bytes :
    ∀ l : List Breakpoint, (∀ b ∈ l, b.Fits) → readPoints (l.flatMap Breakpoint.bytes) = l
  | [], _ => rfl
  | b :: rest, h => by
    obtain ⟨⟨h1, h2, h3⟩, hrest⟩ := List.forall_mem_cons.1 h
    simp only [List.flatMap_cons, Breakpoint.bytes, be16, List.cons_append, List.nil_append, readPoints,
      be16_nat16 b.h h1, be16_nat16 b.plo h2, be16_nat16 b.phi h3, readPoints_bytes rest hrest]

theorem bytes_of_readPoints : ∀ (n : Nat) (l : List Byte), l.length = 6 * n →
    (readPoints l).flatMap Breakpoint.bytes = l ∧ (readPoints l).length = n
  | 0, l, h => by
    obtain rfl := List.length_eq_zero_iff.1 (show l.length = 0 by omega)
    exact ⟨rfl, rfl⟩
  | n + 1, h1 :: h0 :: l1 :: l0 :: p1 :: p0 :: rest, h => by
    obtain ⟨bytes, length⟩ := bytes_of_readPoints n rest (by simp only [List.length_cons] at h; omega)
    simp only [readPoints, List.flatMap_cons, bytes, Breakpoint.bytes, be16_of_nat16, List.length_cons, length,
      List.cons_append, List.nil_append, and_self]

/-! ## The fields behind the breakpoints -/

/-- The bytes of a unit record behind its breakpoints. -/
def UnitRecord.tailBytes (r : UnitRecord) : List Byte :=
  num8 (flagBit r.reach1 1 + flagBit r.reach2 2) ++ be16 r.genStartTime ++ be16 r.spinTime ++ be16 r.primeTime
    ++ be16 r.changeoverTime ++ be16 r.stopTime ++ be16 r.minRun ++ be16 r.minRest ++ r.changeover.bytes

/-- A record's fields behind the breakpoints stand in two bytes each. -/
def UnitRecord.TimesFit (r : UnitRecord) : Prop :=
  r.genStartTime < 65536 ∧ r.spinTime < 65536 ∧ r.primeTime < 65536 ∧ r.changeoverTime < 65536
    ∧ r.stopTime < 65536 ∧ r.minRun < 65536 ∧ r.minRest < 65536

theorem tailBytes_length (r : UnitRecord) : r.tailBytes.length = 16 := rfl

theorem reach_of_byte : ∀ b : Byte, b.toNat < 4 →
    byteOf (flagBit (b.getLsbD 0) 1 + flagBit (b.getLsbD 1) 2) = b := by decide

theorem byte_of_reach (r1 r2 : Bool) : (byteOf (flagBit r1 1 + flagBit r2 2)).toNat < 4
    ∧ (byteOf (flagBit r1 1 + flagBit r2 2)).getLsbD 0 = r1
    ∧ (byteOf (flagBit r1 1 + flagBit r2 2)).getLsbD 1 = r2 := by
  cases r1 <;> cases r2 <;> decide

theorem readUnitTail_bytes (r : UnitRecord) (h : r.TimesFit) :
    readUnitTail r.kind r.group r.genMin r.genMax r.points r.tailBytes = some r := by
  obtain ⟨h1, h2, h3, h4, h5, h6, h7⟩ := h
  obtain ⟨low, bit0, bit1⟩ := byte_of_reach r.reach1 r.reach2
  have ch := ofCode_idxOf [Permission.permitted, .notPermitted] r.changeover
    (by cases r.changeover <;> decide) (by decide)
  simp only [UnitRecord.tailBytes, Permission.bytes, codeOf, num8, be16, List.cons_append, List.nil_append,
    readUnitTail, ch, low, if_true, bit0, bit1, be16_nat16 _ h1, be16_nat16 _ h2, be16_nat16 _ h3, be16_nat16 _ h4,
    be16_nat16 _ h5, be16_nat16 _ h6, be16_nat16 _ h7]

theorem tail_of_readUnitTail (kind : UnitKind) (group : GroupId) (lo hi : Nat) (points : List Breakpoint)
    (t : List Byte) (r : UnitRecord) (h : readUnitTail kind group lo hi points t = some r) :
    t = r.tailBytes ∧ r.kind = kind ∧ r.group = group ∧ r.genMin = lo ∧ r.genMax = hi ∧
      r.points = points := by
  unfold readUnitTail at h
  split at h
  · split at h
    · rename_i ch hch
      split at h
      · rename_i low
        cases h
        refine ⟨?_, rfl, rfl, rfl, rfl, rfl⟩
        simp only [UnitRecord.tailBytes, Permission.bytes, codeOf_of_ofCode hch (by decide), be16_of_nat16, num8,
          reach_of_byte _ low, List.cons_append, List.nil_append]
      · cases h
    · cases h
  · cases h

/-! ## The record -/

/-- A record's fields stand in their widths. -/
structure UnitRecord.Fits (r : UnitRecord) : Prop where
  genMin : r.genMin < 65536
  genMax : r.genMax < 65536
  count : r.points.length < 256
  points : ∀ b ∈ r.points, b.Fits
  times : r.TimesFit

theorem checked_fits (r : UnitRecord) (h : r.Checked) : r.Fits := by
  obtain ⟨_, _, _, _, _, points, _, times, _, _⟩ := h
  simp only [List.forall_mem_cons] at times
  refine ⟨by omega, by omega, by omega, fun b hb => ?_, ?_⟩
  · obtain ⟨_, _, _, _⟩ := points b hb
    exact ⟨by omega, by omega, by omega⟩
  · simp only [UnitRecord.TimesFit]
    omega

theorem unitBytes_some (r : UnitRecord) : unitBytes (some r) =
    1 :: (codeOf [UnitKind.fixedSpeed, .variableSpeed] r.kind ++ num8 (groupNumber r.group) ++ be16 r.genMin
      ++ be16 r.genMax ++ num8 r.points.length ++ (r.points.flatMap Breakpoint.bytes ++ r.tailBytes)) := by
  simp only [unitBytes, UnitRecord.tailBytes, counted, num8, List.append_assoc, List.cons_append, List.nil_append]

theorem groupNumber_le (g : GroupId) : groupNumber g ≤ 4 := g.isLt

theorem readUnitBody_bytes (r : UnitRecord) (h : r.Fits) :
    readUnitBody (codeOf [UnitKind.fixedSpeed, .variableSpeed] r.kind ++ num8 (groupNumber r.group) ++ be16 r.genMin
      ++ be16 r.genMax ++ num8 r.points.length ++ (r.points.flatMap Breakpoint.bytes ++ r.tailBytes)) = some r := by
  have kind := ofCode_idxOf [UnitKind.fixedSpeed, .variableSpeed] r.kind (by cases r.kind <;> decide) (by decide)
  have group : groupOf (byteOf (groupNumber r.group)).toNat = some r.group := by
    rw [byteOf_toNat _ (by have := groupNumber_le r.group; omega), (groupOf_eq_some _ r.group).2 rfl]
  have first := List.take_left' (l₂ := r.tailBytes) (points_length r.points)
  have last := List.drop_left' (l₂ := r.tailBytes) (points_length r.points)
  simp only [codeOf, num8, be16, List.cons_append, List.nil_append, readUnitBody, kind, group,
    byteOf_toNat _ h.count, first, last, readPoints_bytes _ h.points, be16_nat16 _ h.genMin, be16_nat16 _ h.genMax,
    readUnitTail_bytes r h.times]

theorem bytes_of_readUnitBody (l : List Byte) (r : UnitRecord) (h : readUnitBody l = some r) :
    l = codeOf [UnitKind.fixedSpeed, .variableSpeed] r.kind ++ num8 (groupNumber r.group) ++ be16 r.genMin
      ++ be16 r.genMax ++ num8 r.points.length ++ (r.points.flatMap Breakpoint.bytes ++ r.tailBytes) := by
  unfold readUnitBody at h
  split at h
  · split at h
    · rename_i k g a1 a0 b1 b0 count rest _ _ kind group hk hg
      obtain ⟨tail, rkind, rgroup, rmin, rmax, rpoints⟩ := tail_of_readUnitTail _ _ _ _ _ _ _ h
      have length : (rest.take (6 * count.toNat)).length = 6 * count.toNat := by
        have := congrArg List.length tail
        rw [List.length_drop, tailBytes_length] at this
        rw [List.length_take]
        omega
      obtain ⟨points, number⟩ := bytes_of_readPoints count.toNat _ length
      rw [groupOf_eq_some] at hg
      have whole := List.take_append_drop (6 * count.toNat) rest
      rw [tail] at whole
      rw [rkind, rgroup, rmin, rmax, rpoints, codeOf_of_ofCode hk (by decide), ← hg, num8_toNat, be16_of_nat16,
        be16_of_nat16, number, num8_toNat, points, whole]
      rfl
    · cases h
  · cases h

theorem readUnit_present_iff (record : List Byte) (r : UnitRecord) :
    readUnit record = some (some r) ↔ record = unitBytes (some r) ∧ r.Checked := by
  constructor
  · intro h
    refine ⟨?_, (unitRecord_valid_iff r).1 (readUnit_valid record r h)⟩
    unfold readUnit at h
    split at h
    · rename_i p rest
      split at h
      · simp [keepIf] at h
      · rename_i hp
        split at h
        · rename_i v hv
          split at h
          · cases h
            have present : [p] = codeOf [false, true] true := (codeOf_of_ofCode hp (by decide)).symm
            rw [unitBytes_some, ← bytes_of_readUnitBody rest r hv, (List.cons.inj present).1]
            rfl
          · cases h
        · cases h
      · cases h
    · cases h
  · rintro ⟨rfl, checked⟩
    have present : ofCode [false, true] (1 : Byte) = some true := rfl
    rw [unitBytes_some]
    simp only [readUnit, present, readUnitBody_bytes r (checked_fits r checked), (unitRecord_valid_iff r).2 checked,
      if_true]

/-! ## The clearing write (log entry 17) -/

theorem clearingLength_iff (l : List Byte) : clearingLength l = true ↔ l = [] ∨ ∃ fields count rest,
    l = fields ++ count :: rest ∧ fields.length = 6 ∧ rest.length = 16 + 6 * count.toNat := by
  constructor
  · intro h
    unfold clearingLength at h
    split at h
    · exact .inl rfl
    · rename_i a b c d e f count rest
      exact .inr ⟨[a, b, c, d, e, f], count, rest, rfl, rfl, by simpa using h⟩
    · cases h
  · rintro (rfl | ⟨fields, count, rest, rfl, six, length⟩)
    · rfl
    · match fields, six with
      | [a, b, c, d, e, f], _ => simpa [clearingLength] using length

theorem readUnit_clear_iff (record : List Byte) : readUnit record = some none ↔ record = [0] ∨
    ∃ fields count rest, record = 0 :: fields ++ count :: rest ∧ fields.length = 6
      ∧ rest.length = 16 + 6 * count.toNat := by
  have clears (rest : List Byte) : readUnit (0 :: rest) = some none ↔ clearingLength rest = true := by
    have absent : ofCode [false, true] (0 : Byte) = some false := rfl
    simp only [readUnit, absent, keepIf]
    split <;> simp [*]
  have zero (h : readUnit record = some none) : ∃ rest, record = 0 :: rest := by
    unfold readUnit at h
    split at h
    · rename_i p rest
      split at h
      · rename_i hp
        have absent : [p] = codeOf [false, true] false := (codeOf_of_ofCode hp (by decide)).symm
        exact ⟨rest, by rw [(List.cons.inj absent).1]; rfl⟩
      · split at h
        · split at h <;> cases h
        · cases h
      · cases h
    · cases h
  constructor
  · intro h
    obtain ⟨rest, rfl⟩ := zero h
    simpa using (clearingLength_iff rest).1 ((clears rest).1 h)
  · rintro (rfl | ⟨fields, count, rest, rfl, six, length⟩)
    · rfl
    · exact (clears _).2 ((clearingLength_iff _).2 (.inr ⟨fields, count, rest, rfl, six, length⟩))

/-- Settles O13: each object's bytes read back, and only they do. -/
theorem recordsReadBackAsWritten : Obligations.RecordsReadBackAsWritten := by
  refine ⟨unitRecord_valid_iff, readUnit_present_iff, readUnit_clear_iff, fun record g => ?_, fun record l => ?_,
    fun record e => ?_, fun record v => ?_, fun station record n => ?_⟩
  · exact ⟨bytes_of_readGroup record g, fun h => h ▸ readGroup_bytes g⟩
  · exact ⟨bytes_of_readMerit record l, fun ⟨h, nodup⟩ => h ▸ readMerit_bytes l nodup⟩
  · exact ⟨bytes_of_readClass record e, fun ⟨h, checked⟩ => h ▸ readClass_bytes e checked⟩
  · exact ⟨bytes_of_readSeverity record v, fun h => h ▸ readSeverity_bytes v⟩
  · exact ⟨bytes_of_readNotice station record n, fun ⟨h, addr, free, c1, c2, c3⟩ =>
      h ▸ readNotice_bytes station n addr free c1 c2 c3⟩

end Sys2Proof.Machine
end

section
/-! PROOFS. What a READ returns, object by object, in the statement's own words for a marked field, a flag and a
list (R7, R62, R81, R108, R117, R153, R172, R180, R182, R184, R188, section 11.2). -/
namespace Sys2Proof.Machine

/-! ## The encodings in plain words -/

theorem flagByte_eq (b : Bool) : flagByte b = if b = true then [1] else [0] := by
  cases b <;> rfl

theorem marked_eq {α : Type} (width : Nat) (enc : α → List Byte) (x : Option α) :
    marked width enc x = x.elim (0 :: List.replicate width 0) (fun a => 1 :: enc a) := by
  cases x <;> rfl

theorem code_setFirst (b : Bool) : codeOf [true, false] b = if (!b) = true then [1] else [0] := by
  cases b <;> rfl

theorem code_sense (x : Sense) : x.bytes = if (x == .edge) = true then [1] else [0] := by
  cases x <;> rfl

theorem code_policy (p : RestartPolicy) :
    codeOf [RestartPolicy.restart, .latch] p = if (p == .latch) = true then [1] else [0] := by
  cases p <;> rfl

theorem code_setting (x : AuthoritySetting) :
    codeOf [AuthoritySetting.remote, .localControl] x = if (x == .localControl) = true then [1] else [0] := by
  cases x <;> rfl

theorem code_protection (p : Protection) :
    codeOf [Protection.protect, .overwrite] p = if (p == .overwrite) = true then [1] else [0] := by
  cases p <;> rfl

theorem code_reach (r1 r2 : Bool) : num8 (flagBit r1 1 + flagBit r2 2)
    = [byteOf ((if r1 = true then 1 else 0) + if r2 = true then 2 else 0)] := by
  cases r1 <;> cases r2 <;> rfl

theorem code_sub (x : SubCause) : num8 (subCode x) = [if x = .orderSource then 1 else 0] := by
  cases x <;> rfl

theorem flatMap_num8 {α : Type} (f : α → Nat) (l : List α) :
    l.flatMap (fun x => num8 (f x)) = l.map (fun x => byteOf (f x)) :=
  List.flatMap_pure_eq_map (fun x => byteOf (f x)) l

theorem counted_congr {α : Type} {f g : α → List Byte} (h : ∀ x, f x = g x) (l : List α) :
    counted f l = byteOf l.length :: l.flatMap g := by
  rw [counted, funext h]

/-! ## The items of lists -/

theorem entry_bytes (e : Entry) : e.bytes = [byteOf (unitNumber e.unit)]
    ++ [byteOf ([EntryKind.startGen, .startPump, .changeover].idxOf e.kind)] ++ be32 e.enqueued
    ++ [byteOf ([HoldReason.new, .interlock, .noConverter].idxOf e.reason)]
    ++ (e.blocking.map unitNumber).elim (0 :: List.replicate 1 0) (fun n => [1, byteOf n]) := by
  rw [Entry.bytes, marked_eq, Option.elim_map]
  rfl

theorem order_bytes (q : QueuedOrder) : q.bytes = [byteOf q.order.station] ++ [kindCode q.order.kind]
    ++ q.order.argument.elim (0 :: List.replicate 2 0) (fun n => 1 :: be16 n) ++ be32 q.queuedAt := by
  rw [QueuedOrder.bytes, marked_eq]
  rfl

/-- Settles O15: each object's bytes, with its marks, flags and lists put in plain words. -/
theorem readRepliesAreLaidOut : Obligations.ReadRepliesAreLaidOut := by
  unfold Obligations.ReadRepliesAreLaidOut
  intro time byte flag none8 times bytes words tstate origin entries action permission
  refine ⟨rfl, fun r => ?unit, fun g => ?group, fun l => rfl, fun e => ?classEntry, fun v => ?severity,
    fun n => ?notice, fun r => ?tracker, fun r => ?converter, fun s => rfl, fun s => ?flags, fun s => ?capture,
    fun s u => ?lineInput, fun s => ?descriptor, fun s => ?settings, fun s => ?queue⟩
  case unit =>
    simp only [unitBytes, counted, code_reach, List.append_assoc, List.cons_append]
    rfl
  case group =>
    rw [GroupRecord.bytes, code_setFirst]
    rfl
  case classEntry =>
    rw [ClassEntry.bytes, code_setFirst]
    cases e.kinds <;> rfl
  case severity => cases v <;> rfl
  case notice =>
    simp only [NoticeSettings.bytes, flagByte_eq]
    rfl
  case tracker =>
    unfold Tracker.bytes
    rw [code_setFirst]
    simp only [flagByte_eq, marked_eq, times, bytes, words, Option.elim_map]
    rfl
  case converter =>
    simp only [ConvRecord.bytes, flagByte_eq, marked_eq, times, bytes, Option.elim_map]
    cases r.state <;> rfl
  case flags =>
    refine ⟨s.classFlagByte, ?_, rfl⟩
    simp only [State.flagBytes, funext flagByte_eq]
    rfl
  case capture =>
    rw [State.captureBytes, marked_eq]
    cases s.errors.capture with
    | none => rfl
    | some c =>
      rw [Option.elim_some, Capture.bytes, code_sub]
      rfl
  case lineInput =>
    simp only [State.lineInputBytes, unitOf_unitNumber, code_sense, flagByte_eq]
    exact ⟨rfl, rfl, rfl⟩
  case descriptor =>
    intro groups
    have empty : s.permittingGroups.isEmpty = decide (groups = []) := by
      rw [show s.permittingGroups = groups from rfl]
      cases groups <;> rfl
    refine ⟨rfl, rfl, ?_, ?_⟩
    · simp only [State.descriptorBytes, empty, decide_eq_true_eq]
      rfl
    · simp only [State.descriptorBytes, empty, decide_eq_true_eq, counted, flatMap_num8]
      rfl
  case settings =>
    intro t
    unfold State.settingsBytes
    simp only [code_sense]
    rw [code_policy, code_setting, code_protection]
    simp only [flagByte_eq]
    rfl
  case queue =>
    intro v l
    have misses : s.line.misses.toList.flatMap num8 = s.line.misses.toList.map byteOf := flatMap_num8 id _
    unfold State.queueBytes Solver.bytes State.lineBytes State.pollInFlight
    rw [counted_congr entry_bytes s.solver.plan.queue, counted_congr entry_bytes s.queue, marked_eq, marked_eq]
    simp only [flagByte_eq, counted_congr order_bytes, misses, ← List.append_assoc]
    rfl

end Sys2Proof.Machine
end

section
/-! PROOFS. The SETTINGS record as bytes: its mask, its fields in ascending bit order, the range of each and the
record they leave (R174, R175, section 11.2). -/
namespace Sys2Proof.Machine

/-! ## The mask and the length of the record -/

theorem settingsMask_be32 (mask : Nat) (body : List Byte) (h : mask ≤ 4294967295) :
    settingsMask (be32 mask ++ body) = some mask := by
  have value : nat32 (byteOf (mask / 16777216)) (byteOf (mask / 65536)) (byteOf (mask / 256)) (byteOf mask)
      = mask := by
    simp only [nat32, nat16, byteOf, BitVec.toNat_ofNat]
    omega
  exact congrArg some value

theorem settingsMask_short (record : List Byte) (h : record.length < 4) : settingsMask record = none := by
  unfold settingsMask
  split
  · simp only [List.length_cons] at h
    omega
  · rfl

theorem settingWidth_wide (i : Nat) (h : i ∈ wideSettings) : settingWidth i = 2 :=
  if_pos (List.contains_iff_mem.2 h)

theorem settingWidth_narrow (i : Nat) (h : i ∉ wideSettings) : settingWidth i = 1 :=
  if_neg (mt List.contains_iff_mem.1 h)

/-- The bytes of one field of a SETTINGS record. -/
def fieldBytes (mask : Nat) (raw : Nat → Nat) (i : Nat) : List Byte :=
  if mask.testBit i = false then [] else if i ∈ wideSettings then be16 (raw i) else [byteOf (raw i)]

/-- The length of one field of a SETTINGS record. -/
def fieldLength (mask i : Nat) : Nat :=
  if mask.testBit i = false then 0 else if i ∈ wideSettings then 2 else 1

theorem readFields_skip (mask i : Nat) (rest : List Nat) (bytes : List Byte) (h : mask.testBit i = false) :
    readFields mask (i :: rest) bytes = readFields mask rest bytes := by
  simp [readFields, h]

theorem readFields_narrow (mask i : Nat) (rest : List Nat) (b : Byte) (more : List Byte)
    (h : mask.testBit i = true) (narrow : i ∉ wideSettings) : readFields mask (i :: rest) (b :: more)
      = (readFields mask rest more).map ((i, b.toNat) :: ·) := by
  simp [readFields, h, settingWidth_narrow i narrow]

theorem readFields_wide (mask i : Nat) (rest : List Nat) (b1 b0 : Byte) (more : List Byte)
    (h : mask.testBit i = true) (wide : i ∈ wideSettings) : readFields mask (i :: rest) (b1 :: b0 :: more)
      = (readFields mask rest more).map ((i, nat16 b1 b0) :: ·) := by
  simp [readFields, h, settingWidth_wide i wide]

/-- The fields of a record read back, in the order of the bits (section 11.2). -/
theorem readFields_bytes (mask : Nat) (raw : Nat → Nat)
    (small : ∀ i, raw i ≤ if i ∈ wideSettings then 65535 else 255) : ∀ bits : List Nat,
    readFields mask bits (bits.flatMap (fieldBytes mask raw))
      = some ((bits.filter (fun i => mask.testBit i)).map (fun i => (i, raw i)))
  | [] => rfl
  | i :: rest => by
    have ih := readFields_bytes mask raw small rest
    have range := small i
    rw [List.flatMap_cons, fieldBytes]
    by_cases written : mask.testBit i = true
    · rw [if_neg (by simp [written]), List.filter_cons_of_pos written, List.map_cons]
      by_cases wide : i ∈ wideSettings
      · rw [if_pos wide] at range
        rw [if_pos wide, be16, List.cons_append, List.cons_append, List.nil_append,
          readFields_wide _ _ _ _ _ _ written wide, ih, be16_nat16 _ (by omega)]
        rfl
      · rw [if_neg wide] at range
        rw [if_neg wide, List.cons_append, List.nil_append, readFields_narrow _ _ _ _ _ written wide, ih,
          byteOf_toNat _ (by omega)]
        rfl
    · rw [if_pos (by simpa using written), List.nil_append, readFields_skip _ _ _ _ (by simpa using written), ih,
        List.filter_cons_of_neg written]

/-- A record that is read has the length of its fields (R191). -/
theorem readFields_length (mask : Nat) : ∀ (bits : List Nat) (bytes : List Byte) (fields : List (Nat × Nat)),
    readFields mask bits bytes = some fields → bytes.length = (bits.map (fieldLength mask)).sum
  | [], [], _, _ => rfl
  | [], _ :: _, _, h => by cases h
  | i :: rest, bytes, fields, h => by
    rw [List.map_cons, List.sum_cons, fieldLength]
    by_cases written : mask.testBit i = true
    · rw [if_neg (by simp [written])]
      by_cases wide : i ∈ wideSettings
      · rw [if_pos wide]
        match bytes with
        | b1 :: b0 :: more =>
          rw [readFields_wide _ _ _ _ _ _ written wide] at h
          obtain ⟨f, hf, _⟩ := Option.map_eq_some_iff.1 h
          have := readFields_length mask rest more f hf
          simp only [List.length_cons]
          omega
        | [b] => simp [readFields, written, settingWidth_wide i wide] at h
        | [] => simp [readFields, written, settingWidth_wide i wide] at h
      · rw [if_neg wide]
        match bytes with
        | b :: more =>
          rw [readFields_narrow _ _ _ _ _ written wide] at h
          obtain ⟨f, hf, _⟩ := Option.map_eq_some_iff.1 h
          have := readFields_length mask rest more f hf
          simp only [List.length_cons]
          omega
        | [] => simp [readFields, written, settingWidth_narrow i wide] at h
    · rw [if_pos (by simpa using written), Nat.zero_add]
      rw [readFields_skip _ _ _ _ (by simpa using written)] at h
      exact readFields_length mask rest bytes fields h

/-! ## The values of the fields -/

theorem signed16_eq (raw : Nat) (h : raw ≤ 65535) : signed16 raw = asSigned raw := by
  simp only [signed16, asSigned, BitVec.toInt_eq_toNat_cond, BitVec.toNat_ofNat]
  split <;> split <;> omega

/-- The settings with the fields that `w` marks at their written values (R174, R175). -/
def Settings.writtenBy (t : Settings) (w : Nat → Bool) (raw : Nat → Nat) : Settings :=
  let num (i old : Nat) : Nat := if w i then raw i else old
  let int (i : Nat) (old : Int) : Int := if w i then asSigned (raw i) else old
  let flag (i : Nat) (old : Bool) : Bool := if w i then raw i == 1 else old
  let action (i : Nat) (old : Action) : Action :=
    if w i then ([Action.consume, .forward, .copy, .drop][raw i]?).getD old else old
  { stationAddr := num 0 t.stationAddr, stationUsed := t.stationUsed || w 0
    fitted := num 1 t.fitted, fittedUsed := t.fittedUsed || w 1
    dispatchAddr := num 2 t.dispatchAddr, plantMin := int 3 t.plantMin, plantMax := int 4 t.plantMax
    rampInterval := num 5 t.rampInterval, orderTimeout := num 6 t.orderTimeout
    designHead := num 7 t.designHead, headStaleTime := num 8 t.headStaleTime
    headDeadband := num 9 t.headDeadband
    policy := if w 10 then (if raw 10 = 0 then .restart else .latch) else t.policy
    enAvailability := flag 11 t.enAvailability, enPin := flag 12 t.enPin, enHead := flag 13 t.enHead
    enPeriod := flag 14 t.enPeriod, resolvePeriod := num 15 t.resolvePeriod
    devThreshold := num 16 t.devThreshold, statusInterval := num 17 t.statusInterval
    attachTimeout := num 18 t.attachTimeout, pollTimeout := num 19 t.pollTimeout
    missLimit := num 20 t.missLimit, defaultU := action 21 t.defaultU, defaultD := action 22 t.defaultD
    senses := Vector.ofFn (fun u => if w (23 + u.val) then
        (if raw (23 + u.val) = 0 then .level else .edge) else t.senses.get u) }

theorem writtenBy_none (t : Settings) (raw : Nat → Nat) : t.writtenBy (fun _ => false) raw = t := by
  have senses : Vector.ofFn (fun u => t.senses.get u) = t.senses := by
    ext i hi
    simp [Vector.get_eq_getElem]
  simp [Settings.writtenBy, senses]

theorem writtenBy_congr (t : Settings) (w w' : Nat → Bool) (raw : Nat → Nat) (h : ∀ i < 31, w i = w' i) :
    t.writtenBy w raw = t.writtenBy w' raw := by
  have senses : ∀ u : Fin 8, w (23 + u.val) = w' (23 + u.val) := fun u => h _ (by omega)
  simp [Settings.writtenBy, h, senses]

/-- What a checked store does: it leaves the value when the check passes, nothing otherwise. -/
theorem keepIf_judges {α : Type} {ok : Bool} {p : Prop} {x y : α} (h : ok = true ↔ p) (e : p → x = y) :
    (p → keepIf ok x = some y) ∧ (¬ p → keepIf ok x = none) := by
  unfold keepIf
  exact ⟨fun k => (if_pos (h.2 k)).trans (congrArg some (e k)), fun k => if_neg (mt h.1 k)⟩

/-- One field on top of those written before it: stored when its value is in range, refused otherwise. -/
def StoresNext (t : Settings) (w : Nat → Bool) (raw : Nat → Nat) (i : Nat) : Prop :=
  (SettingTakes i (raw i) → (t.writtenBy w raw).store i (raw i)
      = some (t.writtenBy (Function.update w i true) raw))
    ∧ (¬ SettingTakes i (raw i) → (t.writtenBy w raw).store i (raw i) = none)

theorem storesNext_plain (t : Settings) (w : Nat → Bool) (raw : Nat → Nat) :
    ∀ i ∈ [2, 5, 6, 7, 8, 9, 11, 12, 13, 14, 15, 16, 17, 18, 19, 20], StoresNext t w raw i := by
  intro i hi
  fin_cases hi <;> exact keepIf_judges (by simp [within, SettingTakes]) (fun _ => rfl)

theorem storesNext_once (t : Settings) (w : Nat → Bool) (raw : Nat → Nat) :
    ∀ i ∈ [0, 1], StoresNext t w raw i := by
  intro i hi
  fin_cases hi
  · exact keepIf_judges (by simp [within, SettingTakes]) (fun _ => congrArg
      (fun b => { t.writtenBy (Function.update w 0 true) raw with stationUsed := b }) (Bool.or_true _).symm)
  · refine keepIf_judges ?_ (fun _ => congrArg
      (fun b => { t.writtenBy (Function.update w 1 true) raw with fittedUsed := b }) (Bool.or_true _).symm)
    simp only [within, SettingTakes, Bool.and_eq_true, decide_eq_true_eq]
    omega

theorem storesNext_signed (t : Settings) (w : Nat → Bool) (raw : Nat → Nat) :
    ∀ i ∈ [3, 4], raw i ≤ 65535 → StoresNext t w raw i := by
  intro i hi
  fin_cases hi <;> intro range
  · refine keepIf_judges ?_ (fun _ => ?_)
    · simp [SettingTakes, signed16_eq _ range]
    · rw [signed16_eq _ range]
      rfl
  · refine keepIf_judges ?_ (fun _ => ?_)
    · simp [SettingTakes, signed16_eq _ range]
    · rw [signed16_eq _ range]
      rfl

theorem storesNext_policy (t : Settings) (w : Nat → Bool) (raw : Nat → Nat) : StoresNext t w raw 10 := by
  have stored : (t.writtenBy (Function.update w 10 true) raw)
      = { t.writtenBy w raw with policy := if raw 10 = 0 then .restart else .latch } := rfl
  have takes : SettingTakes 10 (raw 10) ↔ raw 10 ≤ 1 := Iff.rfl
  rw [StoresNext, takes, stored]
  rcases Nat.lt_trichotomy (raw 10) 1 with zero | one | more
  · simp [Settings.store, show raw 10 = 0 by omega]
  · simp [Settings.store, one]
  · simp [Settings.store, show raw 10 ≠ 0 by omega, show raw 10 ≠ 1 by omega, more]

/-- An action is stored when the value is one of the four positions of R155. -/
theorem action_judges {α : Type} (n : Nat) (f : Action → α) (old : Action) :
    (n ≤ 3 → (actionValues[n]?).map f = some (f (([Action.consume, .forward, .copy, .drop][n]?).getD old)))
      ∧ (¬ n ≤ 3 → (actionValues[n]?).map f = none) := by
  constructor
  · intro h
    have hn : n < actionValues.length := Nat.lt_succ_of_le h
    rw [show [Action.consume, .forward, .copy, .drop] = actionValues from rfl, List.getElem?_eq_getElem hn]
    rfl
  · intro h
    rw [List.getElem?_eq_none (Nat.lt_of_not_le h)]
    rfl

theorem storesNext_action (t : Settings) (w : Nat → Bool) (raw : Nat → Nat) :
    ∀ i ∈ [21, 22], StoresNext t w raw i := by
  intro i hi
  fin_cases hi
  · exact action_judges (raw 21) (fun a => { t.writtenBy w raw with defaultU := a }) t.defaultU
  · exact action_judges (raw 22) (fun a => { t.writtenBy w raw with defaultD := a }) t.defaultD

theorem upd_ofFn {α : Type} {n : Nat} (f : Fin n → α) (u : Fin n) (x : α) :
    upd (Vector.ofFn f) u x = Vector.ofFn (Function.update f u x) := by
  ext i hi
  by_cases e : u.val = i
  · subst e
    simp [upd]
  · have ne : (⟨i, hi⟩ : Fin n) ≠ u := fun k => e (congrArg Fin.val k).symm
    simp [upd, e, Function.update_of_ne ne]

theorem writtenBy_sense (t : Settings) (w : Nat → Bool) (raw : Nat → Nat) (u : Fin 8) :
    { t.writtenBy w raw with
        senses := upd (t.writtenBy w raw).senses u (if raw (23 + u.val) = 0 then .level else .edge) }
      = t.writtenBy (Function.update w (23 + u.val) true) raw := by
  have others : ∀ i < 23, Function.update w (23 + u.val) true i = w i :=
    fun i hi => Function.update_of_ne (by omega) _ _
  have senses : upd (t.writtenBy w raw).senses u (if raw (23 + u.val) = 0 then .level else .edge)
      = (t.writtenBy (Function.update w (23 + u.val) true) raw).senses := by
    simp only [Settings.writtenBy, upd_ofFn]
    congr 1
    funext v
    by_cases e : v = u
    · subst e
      simp
    · have ne : 23 + v.val ≠ 23 + u.val := fun k => e (Fin.ext (Nat.add_left_cancel k))
      rw [Function.update_of_ne e, Function.update_of_ne ne]
  rw [senses]
  simp [Settings.writtenBy, others]

theorem storesNext_sense (t : Settings) (w : Nat → Bool) (raw : Nat → Nat) (u : Fin 8) :
    StoresNext t w raw (23 + u.val) := by
  have takes : SettingTakes (23 + u.val) (raw (23 + u.val)) ↔ raw (23 + u.val) ≤ 1 := by
    fin_cases u <;> rfl
  have place : (t.writtenBy w raw).store (23 + u.val) (raw (23 + u.val)) = keepIf (raw (23 + u.val) ≤ 1)
      { t.writtenBy w raw with
        senses := upd (t.writtenBy w raw).senses u (if raw (23 + u.val) = 0 then .level else .edge) } := by
    fin_cases u <;> rfl
  rw [StoresNext, place]
  exact keepIf_judges (by rw [takes, decide_eq_true_eq]) (fun _ => writtenBy_sense t w raw u)

/-- Every field of the mask is stored when its value is in range, and refused otherwise (R174). -/
theorem storesNext (t : Settings) (w : Nat → Bool) (raw : Nat → Nat) (i : Nat) (hi : i < 31)
    (range : raw i ≤ 65535) : StoresNext t w raw i := by
  have kinds : ∀ i < 23, i ∈ [2, 5, 6, 7, 8, 9, 11, 12, 13, 14, 15, 16, 17, 18, 19, 20] ∨ i ∈ [0, 1]
      ∨ i ∈ [3, 4] ∨ i = 10 ∨ i ∈ [21, 22] := by decide
  rcases Nat.lt_or_ge i 23 with field | sense
  · rcases kinds i field with plain | once | signed | policy | action
    · exact storesNext_plain t w raw i plain
    · exact storesNext_once t w raw i once
    · exact storesNext_signed t w raw i signed range
    · exact policy ▸ storesNext_policy t w raw
    · exact storesNext_action t w raw i action
  · obtain ⟨k, rfl⟩ := Nat.exists_eq_add_of_le sense
    exact storesNext_sense t w raw ⟨k, by omega⟩

/-! ## The record as a whole -/

/-- Fields in range are stored one after the other. -/
theorem storeAll_takes (t : Settings) (raw : Nat → Nat) (range : ∀ i, raw i ≤ 65535) :
    ∀ (bits : List Nat) (w : Nat → Bool), (∀ i ∈ bits, i < 31 ∧ SettingTakes i (raw i)) →
      Settings.storeAll (bits.map (fun i => (i, raw i))) (t.writtenBy w raw)
        = some (t.writtenBy (fun j => w j || decide (j ∈ bits)) raw)
  | [], w, _ => by simp [Settings.storeAll]
  | i :: rest, w, h => by
    obtain ⟨⟨hi, takes⟩, hrest⟩ := List.forall_mem_cons.1 h
    have ih := storeAll_takes t raw range rest (Function.update w i true) hrest
    have marks : (fun j => Function.update w i true j || decide (j ∈ rest))
        = fun j => w j || decide (j ∈ i :: rest) := by
      funext j
      by_cases e : j = i
      · subst e
        simp
      · simp [e]
    rw [List.map_cons, Settings.storeAll, (storesNext t w raw i hi (range i)).1 takes]
    exact ih.trans (by rw [marks])

/-- A field out of its range leaves no record. -/
theorem storeAll_refuses (t : Settings) (raw : Nat → Nat) (range : ∀ i, raw i ≤ 65535) :
    ∀ (bits : List Nat) (w : Nat → Bool), (∀ i ∈ bits, i < 31) → (∃ i ∈ bits, ¬ SettingTakes i (raw i)) →
      Settings.storeAll (bits.map (fun i => (i, raw i))) (t.writtenBy w raw) = none
  | [], _, _, bad => by simp at bad
  | i :: rest, w, h, bad => by
    obtain ⟨hi, hrest⟩ := List.forall_mem_cons.1 h
    have next := storesNext t w raw i hi (range i)
    rw [List.map_cons, Settings.storeAll]
    by_cases takes : SettingTakes i (raw i)
    · rw [next.1 takes]
      refine storeAll_refuses t raw range rest _ hrest ?_
      obtain ⟨j, hj, refused⟩ := bad
      rcases List.mem_cons.1 hj with rfl | there
      · exact absurd takes refused
      · exact ⟨j, there, refused⟩
    · rw [next.2 takes]

theorem consistent_iff (t : Settings) : t.consistent = true ↔ t.Consistent := by
  simp [Settings.consistent, Settings.Consistent]

theorem readSettings_consistent (t v : Settings) (record : List Byte) (h : readSettings t record = some v) :
    v.Consistent := by
  unfold readSettings at h
  split at h
  · cases h
  · split at h
    · cases h
    · split at h
      · split at h
        · rename_i ok
          cases h
          exact (consistent_iff v).1 ok
        · cases h
      · cases h

/-- A record with a mask is judged by its length, by its fields and by the cross-field checks. -/
theorem readSettings_eq (t : Settings) (mask : Nat) (record : List Byte) (h : settingsMask record = some mask) :
    readSettings t record = ((readFields mask settingBits (record.drop 4)).bind
      (fun fields => Settings.storeAll fields t)).bind (fun v => if v.consistent then some v else none) := by
  simp only [readSettings, h]
  cases readFields mask settingBits (record.drop 4) with
  | none => rfl
  | some fields =>
    simp only [Option.bind_some]
    cases Settings.storeAll fields t <;> rfl

theorem be32_drop (mask : Nat) (body : List Byte) : (be32 mask ++ body).drop 4 = body := rfl

theorem readSettings_length (t : Settings) (mask : Nat) (body : List Byte) (hm : mask ≤ 4294967295)
    (h : body.length ≠ settingsLength mask) : readSettings t (be32 mask ++ body) = none := by
  have unread : readFields mask settingBits body = none := by
    rw [Option.eq_none_iff_forall_ne_some]
    exact fun fields read => h (readFields_length mask settingBits body fields read)
  rw [readSettings_eq t mask _ (settingsMask_be32 mask body hm), be32_drop, unread, Option.bind_none,
    Option.bind_none]

/-- The bits that a record marks. -/
def markedBits (mask : Nat) : List Nat := settingBits.filter (fun i => mask.testBit i)

theorem mem_markedBits (mask i : Nat) : i ∈ markedBits mask ↔ i < 31 ∧ mask.testBit i = true := by
  simp [markedBits, settingBits]

/-- A record of the right length is judged by its fields and by the cross-field checks. -/
theorem readSettings_body (t : Settings) (mask : Nat) (raw : Nat → Nat) (hm : mask ≤ 4294967295)
    (small : ∀ i, raw i ≤ if i ∈ wideSettings then 65535 else 255) :
    readSettings t (be32 mask ++ settingsBody mask raw)
      = (Settings.storeAll ((markedBits mask).map (fun i => (i, raw i))) t).bind
          (fun v => if v.consistent then some v else none) := by
  have fields := readFields_bytes mask raw small settingBits
  rw [readSettings_eq t mask _ (settingsMask_be32 mask _ hm), be32_drop]
  exact congrArg (fun x : Option (List (Nat × Nat)) => (x.bind (fun f => Settings.storeAll f t)).bind
    (fun v => if v.consistent then some v else none)) fields

theorem raw_le {raw : Nat → Nat} (small : ∀ i, raw i ≤ if i ∈ wideSettings then 65535 else 255) (i : Nat) :
    raw i ≤ 65535 := by
  have h := small i
  split at h <;> omega

theorem readSettings_refuses_field (t : Settings) (mask : Nat) (raw : Nat → Nat) (hm : mask ≤ 4294967295)
    (small : ∀ i, raw i ≤ if i ∈ wideSettings then 65535 else 255)
    (bad : ∃ i, (i < 31 ∧ mask.testBit i = true) ∧ ¬ SettingTakes i (raw i)) :
    readSettings t (be32 mask ++ settingsBody mask raw) = none := by
  obtain ⟨i, marked, refused⟩ := bad
  have refuses := storeAll_refuses t raw (raw_le small) (markedBits mask) (fun _ => false)
    (fun j hj => ((mem_markedBits mask j).1 hj).1) ⟨i, (mem_markedBits mask i).2 marked, refused⟩
  rw [writtenBy_none] at refuses
  rw [readSettings_body t mask raw hm small, refuses, Option.bind_none]

theorem readSettings_stored (t : Settings) (mask : Nat) (raw : Nat → Nat) (hm : mask ≤ 4294967295)
    (small : ∀ i, raw i ≤ if i ∈ wideSettings then 65535 else 255)
    (takes : ∀ i, i < 31 ∧ mask.testBit i = true → SettingTakes i (raw i)) :
    readSettings t (be32 mask ++ settingsBody mask raw)
      = if (t.written mask raw).consistent then some (t.written mask raw) else none := by
  have stores := storeAll_takes t raw (raw_le small) (markedBits mask) (fun _ => false)
    (fun i hi => ⟨((mem_markedBits mask i).1 hi).1, takes i ((mem_markedBits mask i).1 hi)⟩)
  have marks : t.writtenBy (fun j => false || decide (j ∈ markedBits mask)) raw = t.written mask raw :=
    writtenBy_congr t _ _ raw (fun i hi => by simp [mem_markedBits, hi])
  rw [writtenBy_none, marks] at stores
  rw [readSettings_body t mask raw hm small, stores, Option.bind_some]

/-- What a record of a mask and its fields leaves (R174, R175, section 11.2). -/
theorem settings_record (t : Settings) (mask : Nat) (raw : Nat → Nat) (body : List Byte)
    (hm : mask ≤ 4294967295) (small : ∀ i, raw i ≤ if i ∈ wideSettings then 65535 else 255) :
    settingsMask (be32 mask ++ body) = some mask
      ∧ (writesOnceAgain t (be32 mask ++ body) = true ↔
          mask.testBit 0 = true ∧ t.stationUsed = true ∨ mask.testBit 1 = true ∧ t.fittedUsed = true)
      ∧ (body.length ≠ settingsLength mask → readSettings t (be32 mask ++ body) = none)
      ∧ (body = settingsBody mask raw →
        ((∃ i, (i < 31 ∧ mask.testBit i = true) ∧ ¬ SettingTakes i (raw i)) →
            readSettings t (be32 mask ++ body) = none)
        ∧ (¬ (t.written mask raw).Consistent → readSettings t (be32 mask ++ body) = none)
        ∧ ((∀ i, i < 31 ∧ mask.testBit i = true → SettingTakes i (raw i)) → (t.written mask raw).Consistent →
            readSettings t (be32 mask ++ body) = some (t.written mask raw))) := by
  have read := settingsMask_be32 mask body hm
  refine ⟨read, by simp [writesOnceAgain, read], readSettings_length t mask body hm, fun same => ?_⟩
  subst same
  have refuses := readSettings_refuses_field t mask raw hm small
  have stored := readSettings_stored t mask raw hm small
  refine ⟨refuses, fun crossed => ?_, fun takes agree => ?_⟩
  · by_cases takes : ∀ i, i < 31 ∧ mask.testBit i = true → SettingTakes i (raw i)
    · exact (stored takes).trans (if_neg (mt (consistent_iff _).1 crossed))
    · exact refuses (by simpa [and_assoc] using takes)
  · exact (stored takes).trans (if_pos ((consistent_iff _).2 agree))

theorem settings_record_short (t : Settings) (record : List Byte) (h : record.length < 4) :
    readSettings t record = none ∧ writesOnceAgain t record = false := by
  have unread := settingsMask_short record h
  simp only [readSettings, writesOnceAgain, unread, and_self]

end Sys2Proof.Machine
end

section
/-! PROOFS. The effects of a stored WRITE of SETTINGS, stage by stage in the order of the fields: the fitted
converters, the limits, the order timeout, the design head, the head stale time, the re-solve period, the status
interval, and last the trip lines' senses (R174; log entry 10). -/
namespace Sys2Proof.Machine

/-! ## What a trigger reads, block by block -/

theorem SolverSees.setTable {s t : State} (h : SolverSees s t) (x : UnitTable) :
    SolverSees (s.setTable x) (t.setTable x) := by
  have time := congrArg Snapshot.time h.snapshot
  have tf := congrArg Snapshot.tf h.snapshot
  have te := congrArg Snapshot.te h.snapshot
  have trackers := congrArg Snapshot.trackers h.snapshot
  have queue := congrArg Snapshot.queue h.snapshot
  refine ⟨h.solver, h.remote, h.settings, h.processing, ?_⟩
  simp only [State.snapshot, State.now, State.setTable_table, State.setTable_target, State.setTable_trackers,
    State.setTable_queue, State.setTable_errors] at time tf te trackers queue ⊢
  simp only [time, tf, te, trackers, queue]

theorem SolverSees.setSolver {s t : State} (h : SolverSees s t) (x : Solver) :
    SolverSees (s.setSolver x) (t.setSolver x) :=
  ⟨rfl, h.remote, h.settings, h.processing, h.snapshot⟩

/-! ## Fitted converters (R116) -/

theorem afterFitted_same (w : State) (o : Settings) (h : ¬ (o.fitted = 1 ∧ w.settings.fitted = 2)) :
    w.afterFitted o = w := if_neg h

theorem afterFitted_fits (w : State) (o : Settings) (h : o.fitted = 1 ∧ w.settings.fitted = 2) :
    w.ConvEnters (w.afterFitted o) 1 .unknown .noCause
      ∧ (w.afterFitted o).line = { w.line with misses := w.missesWith 10 0 } := by
  have e : w.afterFitted o = (w.changeConv 1 .unknown).setLine { w.line with misses := w.missesWith 10 0 } :=
    (if_pos h).trans (setMiss_eq _ _ _)
  rw [e]
  refine ⟨⟨(changeConv_conv w 1 .unknown .noCause).trans ?_,
    fun j hj => changeConv_ne w .unknown .noCause hj⟩, rfl⟩
  simp [ConvState.timed]

theorem afterFitted_only (w : State) (o : Settings) : ∃ c l, w.afterFitted o = (w.setConvs c).setLine l := by
  by_cases h : o.fitted = 1 ∧ w.settings.fitted = 2
  · exact ⟨_, _, (if_pos h).trans (setMiss_eq _ _ _)⟩
  · exact ⟨w.convs, w.line, if_neg h⟩

/-! ## Plant limits (R30) -/

theorem clampInt_eq (lo hi x : Int) (h : lo ≤ hi) : clampInt lo hi x = max lo (min hi x) := by
  unfold clampInt
  split
  · omega
  · split <;> omega

/-- The plant limits of a record differ from those of the record before it. -/
abbrev LimitsMove (o v : Settings) : Prop := v.plantMin ≠ o.plantMin ∨ v.plantMax ≠ o.plantMax

/-- The target block after a write of the plant limits (R30). -/
def clampedTarget (t : TargetRamp) (o v : Settings) : TargetRamp :=
  let kept (p : Int) : Int := max v.plantMin (min v.plantMax p)
  let tf := if LimitsMove o v then kept t.tf else t.tf
  let te := if LimitsMove o v then kept t.te else t.te
  { t with tf := tf, te := te, rampNext := if LimitsMove o v ∧ te = tf then none else t.rampNext }

theorem clampedTarget_still (t : TargetRamp) (o v : Settings) (h : ¬ LimitsMove o v) : clampedTarget t o v = t := by
  simp only [clampedTarget, h, false_and, if_false]

/-- What a write of the limits does: the targets are clamped, and the trigger is that of the target that moved. -/
theorem afterLimits_eq (w : State) (o : Settings) (order : w.settings.plantMin ≤ w.settings.plantMax) :
    let clamped := clampedTarget w.target o w.settings
    w.afterLimits o = if clamped.tf ≠ w.target.tf then (w.setTarget clamped).fullTrigger .target
      else if clamped.te ≠ w.target.te then (w.setTarget clamped).loadTrigger else w.setTarget clamped := by
  intro clamped
  by_cases moved : LimitsMove o w.settings
  · have applied : w.afterLimits o = w.applyLimits :=
      if_pos (moved.imp Ne.symm Ne.symm)
    have e : clamped = { w.target with
        tf := clampInt w.settings.plantMin w.settings.plantMax w.target.tf
        te := clampInt w.settings.plantMin w.settings.plantMax w.target.te
        rampNext := if clampInt w.settings.plantMin w.settings.plantMax w.target.te
          = clampInt w.settings.plantMin w.settings.plantMax w.target.tf then none else w.target.rampNext } := by
      simp only [clamped, clampedTarget, moved, if_true, true_and, clampInt_eq _ _ _ order]
    rw [applied, e]
    rfl
  · have still : clamped = w.target := clampedTarget_still _ _ _ moved
    have same : w.afterLimits o = w := if_neg (mt (Or.imp Ne.symm Ne.symm) moved)
    rw [same, still, if_neg (not_not.2 rfl), if_neg (not_not.2 rfl)]
    rfl

/-- The part after the first two stages: the fitted converters and the plant limits. -/
def State.limited (w : State) (o : Settings) : State := (w.afterFitted o).afterLimits o

theorem limited_eq (w : State) (o : Settings) (order : w.settings.plantMin ≤ w.settings.plantMax) :
    let clamped := clampedTarget w.target o w.settings
    let y := (w.afterFitted o).setTarget clamped
    w.limited o = if clamped.tf ≠ w.target.tf then y.fullTrigger .target
      else if clamped.te ≠ w.target.te then y.loadTrigger else y := by
  obtain ⟨c, l, e⟩ := afterFitted_only w o
  have h := afterLimits_eq (w.afterFitted o) o (by rw [e]; exact order)
  rw [State.limited, h, e]
  rfl

theorem frame_limited (w : State) (o : Settings) (order : w.settings.plantMin ≤ w.settings.plantMax) :
    Unchanged [.solver] ((w.afterFitted o).setTarget (clampedTarget w.target o w.settings)) (w.limited o) := by
  rw [limited_eq w o order]
  split
  · exact frame_fullTrigger _ _
  · split
    · exact frame_loadTrigger _
    · exact .refl _ _

/-- What the first two stages leave of each block, and of what the later stages ask. -/
structure Limited (w y : State) (o : Settings) : Prop where
  frame : Unchanged [.convs, .line, .target, .solver] w y
  convs : y.convs = (w.afterFitted o).convs
  line : y.line = (w.afterFitted o).line
  target : y.target = clampedTarget w.target o w.settings
  remote : y.isRemote = w.isRemote
  full : (clampedTarget w.target o w.settings).tf ≠ w.target.tf →
    y.solver = ((w.setTarget (clampedTarget w.target o w.settings)).fullTrigger .target).solver
  load : (clampedTarget w.target o w.settings).tf = w.target.tf →
    (clampedTarget w.target o w.settings).te ≠ w.target.te →
    y.solver = (w.setTarget (clampedTarget w.target o w.settings)).loadTrigger.solver
  quiet : (clampedTarget w.target o w.settings).tf = w.target.tf →
    (clampedTarget w.target o w.settings).te = w.target.te → SolverSees w y

theorem limited_leaves (w : State) (o : Settings) (order : w.settings.plantMin ≤ w.settings.plantMax) :
    Limited w (w.limited o) o := by
  have frame := frame_limited w o order
  have eq := limited_eq w o order
  obtain ⟨c, l, e⟩ := afterFitted_only w o
  generalize hy : w.limited o = y at frame eq
  have target : y.target = clampedTarget w.target o w.settings := frame .target (by decide)
  have inputs : y.inputs = w.inputs := (frame .inputs (by decide)).trans (by rw [e]; rfl)
  have sees : SolverSees (w.setTarget (clampedTarget w.target o w.settings))
      ((w.afterFitted o).setTarget (clampedTarget w.target o w.settings)) := by
    rw [e]
    exact ⟨rfl, rfl, rfl, rfl, rfl⟩
  refine ⟨?_, frame .convs (by decide), frame .line (by decide), target, ?_, fun full => ?_, fun still load => ?_,
    fun still same => ?_⟩
  · rw [e] at frame
    exact ((((frame_setConvs w c).seq (frame_setLine _ l)).seq (frame_setTarget _ _)).seq frame).mono (by decide)
  · simp only [State.isRemote, State.authority, target, inputs]
    rfl
  · rw [eq, if_pos full]
    exact fullTrigger_congr sees _
  · rw [eq, if_neg (not_not.2 still), if_pos load]
    exact loadTrigger_congr sees
  · rw [eq, if_neg (not_not.2 still), if_neg (not_not.2 same), e]
    refine ⟨rfl, rfl, rfl, rfl, ?_⟩
    simp only [State.snapshot, State.setTarget_target, still, same]
    rfl

/-! ## The order timeout and the head stale time (R14, R33) -/

/-- A new order timeout finds the order stale (R33, R34). -/
abbrev State.lateOrder (w : State) (o : Settings) : Prop :=
  o.orderTimeout ≠ w.settings.orderTimeout ∧ w.isRemote = true ∧ w.settings.orderTimeout ≠ 0
    ∧ w.target.staleOrder = false ∧ w.target.orderRef + w.settings.orderTimeout ≤ w.now

/-- A new head stale time finds the head stale (R14). -/
abbrev State.agedHead (w : State) (o : Settings) : Prop :=
  o.headStaleTime ≠ w.settings.headStaleTime ∧ w.table.headStale = false
    ∧ w.table.headRef + w.settings.headStaleTime ≤ w.now

theorem afterOrderTimeout_eq (w : State) (o : Settings) :
    w.afterOrderTimeout o = if w.lateOrder o then w.staleOrderNow else w :=
  if_congr (and_congr_right' (orderIsStale_iff w)) rfl rfl

theorem afterHeadStaleTime_eq (w : State) (o : Settings) :
    w.afterHeadStaleTime o = if w.agedHead o then w.staleHeadNow else w :=
  if_congr (and_congr_right' (headIsStale_iff w)) rfl rfl

/-- From `w` to `y` the monitor may record and the own queue gain a notice; the device time and the rest of the
dispatch port are the same. -/
structure OnlyTold (w y : State) : Prop where
  now : y.now = w.now
  port : ∃ own tx, y.port = { w.port with own := own, tx := tx }

theorem OnlyTold.refl (w : State) : OnlyTold w w := ⟨rfl, w.port.own, w.port.tx, rfl⟩

theorem OnlyTold.trans {s t u : State} (h : OnlyTold s t) (k : OnlyTold t u) : OnlyTold s u := by
  obtain ⟨own, tx, e⟩ := h.port
  obtain ⟨own', tx', e'⟩ := k.port
  exact ⟨k.now.trans h.now, own', tx', by rw [e', e]⟩

theorem OnlyTold.of_unchanged {l : List Block} {s t : State} (h : Unchanged l s t)
    (errors : Block.errors ∉ l := by decide) (port : Block.port ∉ l := by decide) : OnlyTold s t := by
  have he : t.errors = s.errors := h .errors errors
  have hp : t.port = s.port := h .port port
  exact ⟨congrArg ErrorMonitor.now he, s.port.own, s.port.tx, hp⟩

theorem detectAt_told (w : State) (k : ErrorKind) (n : Nat) : OnlyTold w (w.detectAt k n) := by
  obtain ⟨e, own, tx, h, hn⟩ := detectAt_only w k n
  rw [h]
  exact ⟨hn, own, tx, rfl⟩

theorem frame_told (w : State) (k : ErrorKind) (n : Nat) : Unchanged [.errors, .port] w (w.detectAt k n) := by
  obtain ⟨e, own, tx, h, _⟩ := detectAt_only w k n
  rw [h]
  exact (frame_setErrors w e).seq (frame_setPort _ _)

theorem frame_staleOrderNow (w : State) : Unchanged [.target, .errors, .port] w w.staleOrderNow :=
  (frame_setTarget w _).seq (frame_told _ _ _)

theorem frame_staleHeadNow (w : State) : Unchanged [.table, .errors, .port] w w.staleHeadNow :=
  (frame_setTable w _).seq (frame_told _ _ _)

theorem staleOrderNow_told (w : State) : OnlyTold w w.staleOrderNow :=
  (OnlyTold.of_unchanged (frame_setTarget w _)).trans (detectAt_told _ _ _)

theorem staleHeadNow_told (w : State) : OnlyTold w w.staleHeadNow :=
  (OnlyTold.of_unchanged (frame_setTable w _)).trans (detectAt_told _ _ _)

theorem staleHeadNow_sees (w : State) : SolverSees w w.staleHeadNow := by
  have stored : SolverSees w (w.setTable { w.table with headStale := true }) := ⟨rfl, rfl, rfl, rfl, rfl⟩
  exact stored.trans (detectAt_sees _ _ _)

end Sys2Proof.Machine
end

section
/-! PROOFS. The stages of a stored WRITE of SETTINGS taken together: what each block holds before the trip lines
are judged, and the write as a whole (R174; log entry 10). -/
namespace Sys2Proof.Machine
open Host

/-! ## The stages -/

/-- The part after the order timeout's stage. -/
def State.ordered (w : State) (o : Settings) : State := (w.limited o).afterOrderTimeout o

/-- The part after the design head's stage. -/
def State.headed (w : State) (o : Settings) : State := (w.ordered o).afterDesignHead o

/-- The part after the head stale time's stage. -/
def State.aged (w : State) (o : Settings) : State := (w.headed o).afterHeadStaleTime o

/-- The part after the re-solve period's stage. -/
def State.periodSet (w : State) (o : Settings) (written : Bool) : State := (w.aged o).afterResolvePeriod written

/-- The part after the status interval's stage: every effect but those of the trip lines. -/
def State.settled (w : State) (o : Settings) (written : Bool) : State :=
  (w.periodSet o written).afterStatusInterval o

theorem applySettings_eq (w : State) (o : Settings) (mask : Nat) :
    w.applySettings o mask = (w.settled o (mask.testBit 15)).afterSenses o := rfl

theorem frame_afterOrderTimeout (w : State) (o : Settings) :
    Unchanged [.target, .errors, .port] w (w.afterOrderTimeout o) := by
  unfold State.afterOrderTimeout
  split
  · exact frame_staleOrderNow w
  · exact .refl _ w

theorem frame_afterDesignHead (w : State) (o : Settings) : Unchanged [.table, .solver] w (w.afterDesignHead o) := by
  unfold State.afterDesignHead
  split
  · exact (frame_setTable w _).seq (frame_handHead _)
  · exact .refl _ w

theorem frame_afterHeadStaleTime (w : State) (o : Settings) :
    Unchanged [.table, .errors, .port] w (w.afterHeadStaleTime o) := by
  unfold State.afterHeadStaleTime
  split
  · exact frame_staleHeadNow w
  · exact .refl _ w

theorem frame_afterResolvePeriod (w : State) (b : Bool) : Unchanged [.solver] w (w.afterResolvePeriod b) := by
  unfold State.afterResolvePeriod
  split
  · split
    · exact frame_setSolver w _
    · split
      · exact frame_setSolver w _
      · split
        · exact (frame_setSolver w _).trans (frame_fullTrigger _ _)
        · exact frame_setSolver w _
  · exact .refl _ w

theorem frame_afterStatusInterval (w : State) (o : Settings) : Unchanged [.port] w (w.afterStatusInterval o) := by
  unfold State.afterStatusInterval
  split
  · exact frame_setPort w _
  · exact .refl _ w

/-! ## What every stage carries on -/

/-- What the stages up to the re-solve period leave as it is. -/
structure Carried (w y : State) : Prop where
  frame : Unchanged [.convs, .line, .target, .solver, .errors, .port, .table] w y
  told : OnlyTold w y
  remote : y.isRemote = w.isRemote

theorem Carried.trans {s t u : State} (h : Carried s t) (k : Carried t u) : Carried s u :=
  ⟨h.frame.trans k.frame, h.told.trans k.told, k.remote.trans h.remote⟩

theorem Carried.settings {w y : State} (h : Carried w y) : y.settings = w.settings := h.frame .settings (by decide)

theorem carried_limited (w : State) (o : Settings) (order : w.settings.plantMin ≤ w.settings.plantMax) :
    Carried w (w.limited o) := by
  have h := limited_leaves w o order
  exact ⟨h.frame.mono (by decide), .of_unchanged h.frame, h.remote⟩

theorem carried_ordered (w : State) (o : Settings) (order : w.settings.plantMin ≤ w.settings.plantMax) :
    Carried w (w.ordered o) := by
  refine (carried_limited w o order).trans ⟨(frame_afterOrderTimeout _ o).mono (by decide), ?_,
    (keeps_afterOrderTimeout _ o).remote⟩
  rw [State.ordered, State.afterOrderTimeout]
  split
  · exact staleOrderNow_told _
  · exact .refl _

theorem carried_headed (w : State) (o : Settings) (order : w.settings.plantMin ≤ w.settings.plantMax) :
    Carried w (w.headed o) :=
  (carried_ordered w o order).trans ⟨(frame_afterDesignHead _ o).mono (by decide),
    .of_unchanged (frame_afterDesignHead _ o), (keeps_afterDesignHead _ o).remote⟩

theorem carried_aged (w : State) (o : Settings) (order : w.settings.plantMin ≤ w.settings.plantMax) :
    Carried w (w.aged o) := by
  refine (carried_headed w o order).trans ⟨(frame_afterHeadStaleTime _ o).mono (by decide), ?_,
    (keeps_afterHeadStaleTime _ o).remote⟩
  rw [State.aged, State.afterHeadStaleTime]
  split
  · exact staleHeadNow_told _
  · exact .refl _

theorem carried_periodSet (w : State) (o : Settings) (b : Bool)
    (order : w.settings.plantMin ≤ w.settings.plantMax) : Carried w (w.periodSet o b) :=
  (carried_aged w o order).trans ⟨(frame_afterResolvePeriod _ b).mono (by decide),
    .of_unchanged (frame_afterResolvePeriod _ b), (keeps_afterResolvePeriod _ b).remote⟩

/-! ## Which blocks the later stages move -/

theorem frame_settled_aged (w : State) (o : Settings) (b : Bool) :
    Unchanged [.solver, .port] (w.aged o) (w.settled o b) :=
  (frame_afterResolvePeriod (w.aged o) b).seq (frame_afterStatusInterval (w.periodSet o b) o)

theorem frame_settled_ordered (w : State) (o : Settings) (b : Bool) :
    Unchanged [.table, .solver, .errors, .port] (w.ordered o) (w.settled o b) :=
  (((frame_afterDesignHead (w.ordered o) o).seq (frame_afterHeadStaleTime (w.headed o) o)).seq
    (frame_settled_aged w o b)).mono (by decide)

theorem frame_settled_limited (w : State) (o : Settings) (b : Bool) :
    Unchanged [.target, .table, .solver, .errors, .port] (w.limited o) (w.settled o b) :=
  ((frame_afterOrderTimeout (w.limited o) o).seq (frame_settled_ordered w o b)).mono (by decide)

theorem aged_solver (w : State) (o : Settings) : (w.aged o).solver = (w.headed o).solver :=
  frame_afterHeadStaleTime (w.headed o) o .solver (by decide)

theorem ordered_solver (w : State) (o : Settings) : (w.ordered o).solver = (w.limited o).solver :=
  frame_afterOrderTimeout (w.limited o) o .solver (by decide)

theorem settled_solver (w : State) (o : Settings) (b : Bool) :
    (w.settled o b).solver = (w.periodSet o b).solver :=
  frame_afterStatusInterval (w.periodSet o b) o .solver (by decide)

/-- A write of the re-solve period under REMOTE: the timer stops, runs from the last full solve, or fires at once
and runs from now (R43). -/
theorem afterResolvePeriod_leaves {w x : State} (h : SolverSees w x) (remote : w.isRemote = true) :
    (w.settings.resolvePeriod = 0 ∨ w.solver.lastFullStart = none →
      (x.afterResolvePeriod true).solver = { w.solver with resolveNext := none })
    ∧ ∀ a, w.settings.resolvePeriod ≠ 0 → w.solver.lastFullStart = some a →
      (w.now < a + w.settings.resolvePeriod →
        (x.afterResolvePeriod true).solver = { w.solver with resolveNext := some (a + w.settings.resolvePeriod) })
      ∧ (a + w.settings.resolvePeriod ≤ w.now → (x.afterResolvePeriod true).solver = ((w.setSolver { w.solver with
          resolveNext := some (w.now + w.settings.resolvePeriod) }).fullTrigger .period).solver) := by
  have now : x.now = w.now := congrArg Snapshot.time h.snapshot
  simp only [State.afterResolvePeriod, h.remote, remote, h.settings, h.solver, now, Bool.and_self, if_true]
  refine ⟨fun stops => ?_, fun a runs started => ⟨fun early => ?_, fun late => ?_⟩⟩
  · by_cases zero : w.settings.resolvePeriod = 0
    · rw [if_pos zero]
      rfl
    · rw [if_neg zero, stops.resolve_left zero]
      rfl
  · simp only [if_neg runs, started, if_neg (Nat.not_le.2 early)]
    rfl
  · simp only [if_neg runs, started, if_pos late]
    exact fullTrigger_congr (h.setSolver _) _

/-! ## The stages by their conditions -/

section
variable {w : State} {o : Settings} (order : w.settings.plantMin ≤ w.settings.plantMax)
include order

theorem ordered_eq : w.ordered o = if w.lateOrder o then (w.limited o).staleOrderNow else w.limited o := by
  have h := limited_leaves w o order
  have c := carried_limited w o order
  have same : (w.limited o).lateOrder o ↔ w.lateOrder o := by
    simp only [State.lateOrder, c.settings, h.remote, h.target, c.told.now]
    rfl
  exact (afterOrderTimeout_eq _ o).trans (if_congr same rfl rfl)

theorem ordered_table : (w.ordered o).table = w.table :=
  (frame_afterOrderTimeout _ o .table (by decide)).trans ((limited_leaves w o order).frame .table (by decide))

/-- A design head becomes H while no valid HEAD frame has been taken (R13). -/
theorem headed_eq : w.headed o = if o.designHead ≠ w.settings.designHead ∧ w.table.headValid = false then
    ((w.ordered o).setTable { w.table with head := w.settings.designHead }).handHead else w.ordered o := by
  have settings := (carried_ordered w o order).settings
  have table := ordered_table (o := o) order
  rw [State.headed, State.afterDesignHead, settings, table]

theorem headed_table : (w.headed o).table = { w.table with
    head := if o.designHead ≠ w.settings.designHead ∧ w.table.headValid = false then w.settings.designHead
      else w.table.head } := by
  rw [headed_eq order]
  split
  · exact frame_handHead _ .table (by decide)
  · exact ordered_table order

theorem aged_eq : w.aged o = if w.agedHead o then (w.headed o).staleHeadNow else w.headed o := by
  have c := carried_headed w o order
  have same : (w.headed o).agedHead o ↔ w.agedHead o := by
    simp only [State.agedHead, c.settings, headed_table order, c.told.now]
  exact (afterHeadStaleTime_eq _ o).trans (if_congr same rfl rfl)

/-! ## What each block holds in the end -/

theorem settled_frame (b : Bool) :
    Unchanged [.convs, .line, .target, .solver, .errors, .port, .table] w (w.settled o b) :=
  ((carried_aged w o order).frame.seq (frame_settled_aged w o b)).mono (by decide)

/-- The targets: clamped by the limits, and T_f back at T_e when the order is stale (R30, R34). -/
theorem settled_target (b : Bool) : (w.settled o b).target = if w.lateOrder o then
    { w.target with
      tf := (clampedTarget w.target o w.settings).te, te := (clampedTarget w.target o w.settings).te
      rampNext := none, staleOrder := true }
    else clampedTarget w.target o w.settings := by
  have limited := (limited_leaves w o order).target
  rw [frame_settled_ordered w o b .target (by decide), ordered_eq order]
  split
  · have stale : (w.limited o).staleOrderNow.target = { (w.limited o).target with
        tf := (w.limited o).target.te, rampNext := none, staleOrder := true } :=
      frame_told _ _ _ .target (by decide)
    rw [stale, limited]
    rfl
  · exact limited

/-- The head and its stale flag (R13, R14). -/
theorem settled_table (b : Bool) : (w.settled o b).table = { w.table with
    head := if o.designHead ≠ w.settings.designHead ∧ w.table.headValid = false then w.settings.designHead
      else w.table.head
    headStale := if w.agedHead o then true else w.table.headStale } := by
  rw [frame_settled_aged w o b .table (by decide), aged_eq order]
  split
  · have stale : (w.headed o).staleHeadNow.table = { (w.headed o).table with headStale := true } :=
      frame_told _ _ _ .table (by decide)
    rw [stale, headed_table order]
  · exact headed_table order

theorem settled_convs (b : Bool) : (w.settled o b).convs = (w.afterFitted o).convs :=
  (frame_settled_limited w o b .convs (by decide)).trans (limited_leaves w o order).convs

theorem settled_line (b : Bool) : (w.settled o b).line = (w.afterFitted o).line :=
  (frame_settled_limited w o b .line (by decide)).trans (limited_leaves w o order).line

/-- The last stage writes the status timer's next time and nothing else (R166). -/
theorem settled_eq (b : Bool) : w.settled o b = (w.periodSet o b).setPort { (w.periodSet o b).port with
    statusNext := if o.statusInterval = w.settings.statusInterval then w.port.statusNext
      else max w.now (w.port.statusLast + w.settings.statusInterval) } := by
  have c := carried_periodSet w o b order
  obtain ⟨own, tx, port⟩ := c.told.port
  rw [State.settled, State.afterStatusInterval, c.settings, c.told.now, port]
  by_cases same : o.statusInterval = w.settings.statusInterval
  · rw [if_neg (not_not.2 same), if_pos same]
    exact (State.setPort_self _).symm.trans (by rw [port])
  · rw [if_pos same, if_neg same]

/-- Beside the status timer's next time the last stage leaves the dispatch port as it finds it. -/
theorem settled_port (b : Bool) :
    { (w.settled o b).port with statusNext := w.port.statusNext } = (w.periodSet o b).port := by
  obtain ⟨own, tx, port⟩ := (carried_periodSet w o b order).told.port
  rw [settled_eq order, State.setPort_port, port]

/-! ## What the stages tell the monitor -/

theorem headed_monitor : (w.headed o).errors = (w.ordered o).errors ∧ (w.headed o).port = (w.ordered o).port
    ∧ (w.headed o).settings = w.settings :=
  ⟨frame_afterDesignHead (w.ordered o) o .errors (by decide),
    frame_afterDesignHead (w.ordered o) o .port (by decide), (carried_headed w o order).settings⟩

theorem limited_monitor : (w.limited o).errors = w.errors ∧ (w.limited o).port = w.port
    ∧ (w.limited o).settings = w.settings := by
  have h := (limited_leaves w o order).frame
  exact ⟨h .errors (by decide), h .port (by decide), h .settings (by decide)⟩

theorem aged_untold (fresh : ¬ w.lateOrder o) (young : ¬ w.agedHead o) :
    (w.aged o).port = w.port ∧ (w.aged o).errors = w.errors := by
  obtain ⟨errors, port, _⟩ := headed_monitor (o := o) order
  obtain ⟨errors', port', _⟩ := limited_monitor (o := o) order
  rw [aged_eq order, if_neg young, errors, port, ordered_eq order, if_neg fresh]
  exact ⟨port', errors'⟩

theorem aged_tells_order (late : w.lateOrder o) (young : ¬ w.agedHead o) (place : w.ownHasPlace) :
    w.Records (w.aged o) (detection .orderStale 0) := by
  obtain ⟨errors, port, _⟩ := headed_monitor (o := o) order
  obtain ⟨errors', port', settings'⟩ := limited_monitor (o := o) order
  have place' : (w.limited o).ownHasPlace := by
    rw [State.ownHasPlace, port']
    exact place
  rw [ordered_eq order, if_pos late] at errors port
  rw [aged_eq order, if_neg young]
  exact (staleOrderNow_stales _ place').2.1.congr errors'.symm port'.symm settings'.symm errors port

theorem aged_tells_head (fresh : ¬ w.lateOrder o) (aged : w.agedHead o) (place : w.ownHasPlace) :
    w.Records (w.aged o) (detection .headStale 0) := by
  obtain ⟨errors, port, settings⟩ := headed_monitor (o := o) order
  obtain ⟨errors', port', _⟩ := limited_monitor (o := o) order
  rw [ordered_eq order, if_neg fresh] at errors port
  have place' : (w.headed o).ownHasPlace := by
    rw [State.ownHasPlace, port, port']
    exact place
  rw [aged_eq order, if_pos aged]
  exact (staleHeadNow_stales _ place').2.1.congr (errors.trans errors').symm (port.trans port').symm settings.symm
    rfl rfl

/-! ## What the stages tell the solver -/

/-- A re-solve period that is not written, or written outside REMOTE, leaves the timer. -/
theorem periodSet_untimed (b : Bool) (untimed : ¬ (b = true ∧ w.isRemote = true)) :
    w.periodSet o b = w.aged o := by
  have remote := (carried_aged w o order).remote
  refine if_neg (fun h => untimed ?_)
  rwa [remote, Bool.and_eq_true] at h

/-- With no new head and no new period the solver is as the limits left it. -/
theorem settled_solver_limited (b : Bool) (untimed : ¬ (b = true ∧ w.isRemote = true))
    (same : ¬ (o.designHead ≠ w.settings.designHead ∧ w.table.headValid = false)) :
    (w.settled o b).solver = (w.limited o).solver := by
  rw [settled_solver, periodSet_untimed order b untimed, aged_solver, headed_eq order, if_neg same, ordered_solver]

/-- A new head alone is compared with H_ref (R13, R42). -/
theorem settled_solver_head (b : Bool) (untimed : ¬ (b = true ∧ w.isRemote = true))
    (moved : o.designHead ≠ w.settings.designHead ∧ w.table.headValid = false) (fresh : ¬ w.lateOrder o)
    (sees : SolverSees w (w.limited o)) : (w.settled o b).solver =
      if w.solver.headRef + w.settings.headDeadband < w.settings.designHead
        ∨ w.settings.designHead + w.settings.headDeadband < w.solver.headRef
      then ((w.setTable { w.table with head := w.settings.designHead }).fullTrigger .head).solver
      else w.solver := by
  have stored := sees.setTable { w.table with head := w.settings.designHead }
  rw [settled_solver, periodSet_untimed order b untimed, aged_solver, headed_eq order, if_pos moved,
    ordered_eq order, if_neg fresh, handHead_eq, stored.solver, stored.settings]
  rw [apply_ite State.solver]
  exact if_congr Iff.rfl (fullTrigger_congr stored .head) sees.solver

/-- With no other effect on what it reads, the solver sees the head stale time's stage as nothing. -/
theorem aged_sees (fresh : ¬ w.lateOrder o)
    (same : ¬ (o.designHead ≠ w.settings.designHead ∧ w.table.headValid = false))
    (sees : SolverSees w (w.limited o)) : SolverSees w (w.aged o) := by
  rw [aged_eq order, headed_eq order, if_neg same, ordered_eq order, if_neg fresh]
  split
  · exact sees.trans (staleHeadNow_sees _)
  · exact sees

end

/-! ## The trip lines (R181) -/

theorem assertTrip_inputs (w : State) (u : UnitId) :
    (w.assertTrip u).settings = w.settings ∧ (w.assertTrip u).inputs.tripLevel = w.inputs.tripLevel := by
  let flagged := w.setInputs { w.inputs with tripFlag := upd w.inputs.tripFlag u true }
  have frame := frame_tripUnit flagged u
  have inputs : (flagged.tripUnit u).inputs = flagged.inputs := frame .inputs (by decide)
  exact ⟨frame .settings (by decide), (congrArg Inputs.tripLevel inputs).trans rfl⟩

/-- The trip lines whose sense turns to LEVEL while they are asserted, judged by the senses and the levels that the
write found. -/
theorem afterSenses_eq (o v : Settings) (levels : Vector Bool 8) (units : List UnitId) : ∀ w : State,
    w.settings = v → w.inputs.tripLevel = levels →
      units.foldl (fun acc u => if o.senses.get u = .edge ∧ acc.settings.senses.get u = .level
          ∧ acc.inputs.tripLevel.get u then acc.assertTrip u else acc) w
        = units.foldl (fun acc u => if o.senses.get u = .edge ∧ v.senses.get u = .level
          ∧ levels.get u = true then acc.assertTrip u else acc) w := by
  induction units with
  | nil => exact fun _ _ _ => rfl
  | cons u rest ih =>
    intro w hv hl
    rw [List.foldl_cons, List.foldl_cons, hv, hl]
    split
    · obtain ⟨settings, inputs⟩ := assertTrip_inputs w u
      exact ih _ (settings.trans hv) (inputs.trans hl)
    · exact ih w hv hl

/-! ## The write as a whole -/

theorem writeSettings_once (s : State) (record : List Byte) (h : writesOnceAgain s.settings record = true) :
    s.writeSettings record = s.refuseWrite 0 .writeOnce := if_pos h

theorem writeSettings_bad (s : State) (record : List Byte) (h : writesOnceAgain s.settings record = false)
    (bad : readSettings s.settings record = none) : s.writeSettings record = s.refuseWrite 0 .badValue := by
  simp [State.writeSettings, h, bad]

theorem writeSettings_stores (s : State) (record : List Byte) (v : Settings) (mask : Nat)
    (h : writesOnceAgain s.settings record = false) (read : readSettings s.settings record = some v)
    (marked : settingsMask record = some mask) : s.writeSettings record = (State.walkAfter s
      (((s.setSettings v).settled s.settings (mask.testBit 15)).afterSenses s.settings), .ok []) := by
  simp [State.writeSettings, h, read, marked, applySettings_eq]

/-- Settles O55: the record is read field by field, and its effects are taken stage by stage. -/
theorem settingsWriteStoresThenApplies : Obligations.SettingsWriteStoresThenApplies := by
  refine ⟨fun t mask raw body hm small => settings_record t mask raw body hm small, settings_record_short,
    fun s src req record h hr => ?_⟩
  obtain ⟨t, run, answers⟩ := write_answers s src req 1 0 record h hr
  have owner : s.counted.writeObject (1 : Byte).toNat (0 : Byte).toNat record = s.counted.writeSettings record := rfl
  rw [owner] at answers
  refine ⟨_, t, _, congrArg Outcome.next run, answers, fun again => ?_, fun once bad => ?_,
    fun v mask once read marked => ?_⟩
  · rw [writeSettings_once s.counted record again]
    exact ⟨rfl, refuseWrite_refused _ _ _⟩
  · rw [writeSettings_bad s.counted record once bad]
    exact ⟨rfl, refuseWrite_refused _ _ _⟩
  have order : v.plantMin ≤ v.plantMax := (readSettings_consistent _ _ _ read).1
  rw [writeSettings_stores s.counted record v mask once read marked]
  let w := s.counted.setSettings v
  let b := mask.testBit 15
  have frame := settled_frame (w := w) (o := s.settings) order b
  have monitor : (w.settled s.settings b).errors = (w.aged s.settings).errors :=
    frame_settled_aged w s.settings b .errors (by decide)
  have port := (settled_port (w := w) (o := s.settings) order b).trans
    (frame_afterResolvePeriod (w.aged s.settings) b .port (by decide))
  have line := settled_line (w := w) (o := s.settings) order b
  have convs := settled_convs (w := w) (o := s.settings) order b
  have limited := limited_leaves w s.settings order
  refine ⟨rfl, w.settled s.settings b, ?_⟩
  intro o limits kept tf te clamped late newHead aged timed z recorded
  have seen (c : TargetRamp) : SolverSees (z.setTarget c) (w.setTarget c) := ⟨rfl, rfl, rfl, rfl, rfl⟩
  have untimed := settled_solver_limited (w := w) (o := o) order b
  refine ⟨?walk, frame .settings (by decide), settled_target order b, settled_table order b, fun h => ?unfitted,
    fun h1 h2 => ?fitted, ?status, fun fresh young => ?untold, fun late young place => ?order,
    fun fresh aged place => ?head, fun same still head period => ?quiet, fun moved head period => ?full,
    fun same moved head period => ?load, fun same still fresh head period => ?newHead,
    fun same still fresh head period => ?timed, ?frame⟩
  case walk =>
    exact congrArg (State.walkAfter s.counted) (afterSenses_eq s.settings v s.inputs.tripLevel allUnits _
      (frame .settings (by decide)) (congrArg Inputs.tripLevel (frame .inputs (by decide))))
  case unfitted =>
    rw [afterFitted_same w s.settings h] at convs line
    exact ⟨convs, line⟩
  case fitted =>
    obtain ⟨⟨enters, others⟩, misses⟩ := afterFitted_fits w s.settings ⟨h1, h2⟩
    have conv : ∀ c, (w.settled s.settings b).conv c = (w.afterFitted s.settings).conv c :=
      fun c => congrArg (fun x => x.get c) convs
    exact ⟨⟨(conv 1).trans enters, fun j hj => (conv j).trans (others j hj)⟩, line.trans misses⟩
  case status =>
    rw [settled_eq order]
    rfl
  case untold =>
    obtain ⟨port', errors'⟩ := aged_untold (w := w) (o := o) order fresh young
    exact ⟨port.trans port', monitor.trans errors'⟩
  case order =>
    exact (aged_tells_order (w := w) (o := o) order late young place).congr rfl rfl rfl monitor port
  case head =>
    exact (aged_tells_head (w := w) (o := o) order fresh aged place).congr rfl rfl rfl monitor port
  case quiet => exact (untimed period head).trans (limited.quiet same still).solver
  case full =>
    exact ((untimed period head).trans (limited.full moved)).trans (fullTrigger_congr (seen _) .target)
  case load =>
    exact ((untimed period head).trans (limited.load same moved)).trans (loadTrigger_congr (seen _))
  case newHead =>
    refine (settled_solver_head (w := w) (o := o) order b period head fresh (limited.quiet same still)).trans ?_
    refine if_congr Iff.rfl (fullTrigger_congr ?_ .head) rfl
    exact ⟨rfl, rfl, rfl, rfl, rfl⟩
  case timed =>
    obtain ⟨written, remote⟩ := period
    have sees := aged_sees (w := w) (o := o) order fresh head (limited.quiet same still)
    obtain ⟨stops, runs⟩ := afterResolvePeriod_leaves sees remote
    have solver : (w.settled o b).solver = ((w.aged o).afterResolvePeriod true).solver := by
      rw [settled_solver, State.periodSet, show b = true from written]
    refine ⟨fun h => solver.trans (stops h), fun a h1 h2 => ?_⟩
    obtain ⟨early, late⟩ := runs a h1 h2
    refine ⟨fun h => solver.trans (early h),
      fun h => (solver.trans (late h)).trans (fullTrigger_congr ?_ .period)⟩
    exact ⟨rfl, rfl, rfl, rfl, rfl⟩
  case frame =>
    have stored := ((counted_unchanged s).seq (frame_setSettings s.counted v)).seq frame
    exact stored.mono (by decide)

end Sys2Proof.Machine
end

section
/-! PROOFS. The commands, one by one, keep every invariant of Sys2Proof/Safety.lean: so does the step; the
reset state meets the invariants. -/
namespace Sys2Proof.Machine

/-- Every command completes, keeps the invariants and leaves the queue of commands as it is. -/
theorem safe_exec (c : Instr) (s : State) : ∃ t, exec c s = .next t ∧ Safe s t := by
  cases c with
  | uFrameCheck b => exact ⟨_, rfl, safe_whenRunning s _ (safe_receiveBytesU s b)⟩
  | frameClassify | target | hold | admission | head => exact ⟨_, rfl, safe_receiveOn s _ _⟩
  | unitReport | converterReport | nilReply | replyWindowReception | strayReception =>
    exact ⟨_, rfl, safe_lineReception s _⟩
  | receptionLimit => exact ⟨_, rfl, safe_cutAtLimit s⟩
  | receptionStart => exact ⟨_, rfl, (keeps_startReception s).safe⟩
  | replyWindowTimeout => exact ⟨_, rfl, safe_whenRunning s _ (fun _ => (keeps_windowTimeout s).safe)⟩
  | unitLineTxEnd => exact ⟨_, rfl, safe_whenRunning s _ (fun _ => (keeps_lineSent s).safe)⟩
  | pollTxEnd => exact ⟨_, rfl, safe_whenRunning s _ (fun _ => (keeps_pollSent s).safe)⟩
  | dispatchTxEnd => exact ⟨_, rfl, safe_whenRunning s _ (fun _ => safe_dispatchSent s)⟩
  | rampStep => exact ⟨_, rfl, safe_whenRunning s _ (fun _ => safe_rampDue s)⟩
  | orderStale =>
    exact ⟨_, rfl, safe_whenRunning s _ (fun _ => safe_ite s _ _ (fun _ => (keeps_staleOrderNow s).safe))⟩
  | headStale =>
    exact ⟨_, rfl, safe_whenRunning s _ (fun _ => safe_ite s _ _ (fun _ => (keeps_staleHeadNow s).safe))⟩
  | resolveTimerExpiry => exact ⟨_, rfl, safe_whenRunning s _ (fun _ => safe_resolveDue s)⟩
  | statusTimerExpiry =>
    exact ⟨_, rfl, safe_whenRunning s _ (fun _ => safe_ite s _ _ (fun _ => (keeps_statusExpiry s).safe))⟩
  | transitionDeadline u =>
    exact ⟨_, rfl, safe_whenRunning s _ (fun _ =>
      safe_ite s _ _ (fun _ => safe_walk s _ (keeps_faultUnit s u _ _)))⟩
  | pinEnd u =>
    exact ⟨_, rfl, safe_whenRunning s _ (fun _ => safe_ite s _ _ (fun _ => (keeps_endPin s u).safe))⟩
  | converterDeadline c =>
    exact ⟨_, rfl, safe_whenRunning s _ (fun _ =>
      safe_ite s _ _ (fun _ => safe_walk s _ (keeps_expireConv s c)))⟩
  | fullSolveComplete => exact ⟨_, rfl, safe_whenRunning s _ (fun _ => (safe_completions s).1)⟩
  | loadSolveComplete => exact ⟨_, rfl, safe_whenRunning s _ (fun _ => (safe_completions s).2)⟩
  | engineResetEnd => exact ⟨_, rfl, safe_ite s _ _ (safe_endEngineReset s)⟩
  | lineResetEnd =>
    exact ⟨_, rfl, safe_whenRunning s _ (fun _ => safe_ite s _ _ (fun _ => (keeps_endLineReset s).safe))⟩
  | deviceResetEnd => exact ⟨_, rfl, safe_ite s _ _ (fun _ => safe_endDeviceReset s)⟩
  | resetPin =>
    exact ⟨_, rfl, (safe_setLevel s { s.inputs with resetPinLow := true } rfl).trans (safe_beginDeviceReset _)⟩
  | resetPinRelease | emergencyStopRelease | tripLineDeassert => exact ⟨_, rfl, safe_setLevel s _ rfl⟩
  | tripLineAssert u =>
    have level : Safe s (s.setTripLevel u true) := safe_setLevel s _ rfl
    exact ⟨_, rfl, level.trans (safe_whenRunning _ _ (fun _ => safe_walk _ _ (keeps_assertTrip _ u)))⟩
  | emergencyStopEdge =>
    have level : Safe s (s.setEstopLevel true) := safe_setLevel s _ rfl
    exact ⟨_, rfl, level.trans (safe_whenRunning _ _ (fun _ => safe_assertEstop _))⟩
  | localRemoteAssert | localRemoteDeassert => exact ⟨_, rfl, safe_onLocalLine s _⟩
  | deviceTimeTick => exact ⟨_, rfl, safe_whenRunning s _ (fun _ => (keeps_tick s).safe)⟩
  | writeMerit which src req record =>
    cases which <;> exact ⟨_, rfl, safe_request_when s src req _ _ _ record⟩
  | read | writeSettings | writeUnit | writeGroup | writeClass | writeSeverity | writeNotice
  | clearCounters | clearCapture | clearFlags | clearLine | solveNow | unitFaultClear | converterClear
  | estopClear | authoritySet | scanStart | scanStop | scanStep | scanConfig | lineReset | engineReset
  | deviceReset => exact ⟨_, rfl, safe_request_when s _ _ _ _ _ _⟩

/-- What every step keeps beside the queue of commands. -/
structure StepSafe (s t : State) : Prop where
  queues : s.QueuesBounded → t.QueuesBounded
  counters : s.CountersBounded → t.CountersBounded
  limits : s.TargetsInLimits → t.TargetsInLimits
  links : s.LinksBusy → t.LinksBusy
  plans : s.PlansOnlyInRemote → t.PlansOnlyInRemote

/-- A step keeps the invariants: its command does, and no invariant speaks of the queue of commands. -/
theorem safe_step {s t : State} (h : step s = .next t) : StepSafe s t := by
  unfold step at h
  split at h
  · rename_i c rest _
    obtain ⟨t', run, safe⟩ := safe_exec c (s.setPending rest)
    obtain rfl : t' = t := Host.Outcome.next.inj (run.symm.trans h)
    exact ⟨fun k => safe.queues ⟨k.1, k.2, k.3, k.4, k.5, k.6⟩,
      fun k => safe.counters ⟨k.1, k.2, k.3, k.4, k.5, k.6, k.7⟩,
      fun k => safe.limits ⟨k.1, k.2, k.3, k.4⟩, fun k => safe.links ⟨k.1, k.2⟩,
      fun k => safe.plans ⟨k.1, k.2, k.3, k.4, k.5⟩⟩
  · obtain rfl : s.lineChoose = t := Host.Outcome.next.inj h
    have keeps := keeps_lineChoose s
    exact ⟨keeps.queues, keeps.counters, keeps.limits, keeps.links, keeps.plans⟩

/-- Settles O8: every command keeps the targets within the limits. -/
theorem stepKeepsTargetsInLimits : Obligations.StepKeepsTargetsInLimits :=
  fun _ _ inLimits run => (safe_step run).limits inLimits

/-- Settles O10: every command keeps the plans to REMOTE and the ramp timer to its conditions. -/
theorem stepKeepsPlansOnlyInRemote : Obligations.StepKeepsPlansOnlyInRemote :=
  fun _ _ plans run => (safe_step run).plans plans

/-! ## The reset state -/

theorem reset_converter (c : ConvId) :
    State.reset.conv c = .resetAs (if c = 0 then .unknown else .absent) := by
  fin_cases c <;> rfl

theorem reset_recordsAgree : State.reset.RecordsAgree where
  trackers u := by
    rw [reset_tracker]
    refine ⟨?_, ?_, fun _ h => ?_, ?_, ?_, ?_, ?_, ?_, ?_, ?_⟩
    case refine_3 => exact absurd h nofun
    all_goals decide
  convs c := by
    rw [reset_converter]
    refine ⟨?_, ?_⟩ <;> fin_cases c <;> simp [ConvRecord.resetAs]
  starts := by simp [State.reset]
  first := by decide
  fitted := .inl (by decide)
  spun c u h := by
    rw [State.Spins, reset_converter] at h
    fin_cases c <;> simp [ConvRecord.resetAs] at h
  spinning u h := by
    rw [reset_tracker] at h
    exact absurd h (by decide)

theorem reset_countersBounded : State.reset.CountersBounded where
  kinds := by decide
  orderSource := by decide
  traffic := ⟨by decide, by decide, by decide, by decide, by decide, by decide⟩
  completed := by decide
  discarded := by decide
  now := by decide
  sources := fun _ => by decide

/-- Settles O5: nothing waits and nothing is planned after a reset, and each record is at rest. -/
theorem resetStateIsSafe : Obligations.ResetStateIsSafe := by
  refine ⟨?queues, reset_countersBounded, ?limits, ?plans, ?links, reset_recordsAgree⟩
  case queues => exact ⟨by decide, by decide, by decide, by decide, by decide, by decide⟩
  case limits => exact ⟨by decide, by decide, by decide, by decide⟩
  case plans => exact plans_of_dropped _ rfl rfl ⟨rfl, rfl⟩ rfl rfl
  case links => exact ⟨fun _ => ⟨rfl, rfl⟩, fun _ => ⟨rfl, rfl⟩⟩

end Sys2Proof.Machine
end

section
/-! PROOFS. Plant frames: which payloads have fields, where a frame of a plant kind goes, and what TARGET, HOLD
and ADMIT do when they are refused or accepted (R26 to R29, R162, R191). -/
namespace Sys2Proof.Machine

/-! ## The fields of plant frames (R191, section 11.2) -/

theorem kindOf_kindCode (k : FrameKind) : kindOf (kindCode k) = some k := by
  cases k <;> decide

theorem ofFlag_byte (b : Byte) (h : b.toNat ≤ 1) : ofFlag b = some (b == 1) := by
  have cases : b = 0 ∨ b = 1 := by bv_omega
  rcases cases with rfl | rfl <;> rfl

theorem ofFlag_none (b : Byte) (h : 1 < b.toNat) : ofFlag b = none :=
  List.getElem?_eq_none h

theorem targetFields_valid (a b r1 r0 : Byte) (h : nat16 r1 r0 ≤ 9999) :
    targetFields [a, b, r1, r0] = some (int16 a b, nat16 r1 r0) := if_pos h

theorem targetFields_malformed (p : List Byte)
    (h : p.length ≠ 4 ∨ ∃ a b r1 r0, p = [a, b, r1, r0] ∧ 9999 < nat16 r1 r0) : targetFields p = none := by
  rcases h with long | ⟨a, b, r1, r0, rfl, fast⟩
  · unfold targetFields
    split
    · exact absurd rfl long
    · rfl
  · exact if_neg (Nat.not_le.2 fast)

theorem holdField_valid (b : Byte) (h : b.toNat ≤ 1) : holdField [b] = some (b == 1) := ofFlag_byte b h

theorem holdField_malformed (p : List Byte) (h : p.length ≠ 1 ∨ ∃ b, p = [b] ∧ 1 < b.toNat) :
    holdField p = none := by
  rcases h with long | ⟨b, rfl, big⟩
  · unfold holdField
    split
    · exact absurd rfl long
    · rfl
  · exact ofFlag_none b big

theorem admitFields_valid (m b : Byte) (u : UnitId) (hm : m.toNat = unitNumber u) (hb : b.toNat ≤ 1) :
    admitFields [m, b] = some (u, b == 1) := by
  simp only [admitFields, (unitOf_eq_some _ u).2 hm, ofFlag_byte b hb]

theorem admitFields_malformed (p : List Byte)
    (h : p.length ≠ 2 ∨ ∃ m b, p = [m, b] ∧ (m.toNat = 0 ∨ 8 < m.toNat ∨ 1 < b.toNat)) :
    admitFields p = none := by
  rcases h with long | ⟨m, b, rfl, outside⟩
  · unfold admitFields
    split
    · exact absurd rfl long
    · rfl
  · rw [← or_assoc] at outside
    simp only [admitFields]
    rcases outside with machine | flag
    · rw [show unitOf m.toNat = none from dif_neg (by omega)]
    · rw [ofFlag_none b flag]
      cases unitOf m.toNat <;> rfl

theorem headFields_malformed (p : List Byte) (h : p.length ≠ 4
    ∨ ∃ u1 u0 l1 l0, p = [u1, u0, l1, l0] ∧ (30000 < nat16 u1 u0 ∨ 30000 < nat16 l1 l0)) :
    headFields p = none := by
  rcases h with long | ⟨u1, u0, l1, l0, rfl, high⟩
  · unfold headFields
    split
    · exact absurd rfl long
    · rfl
  · exact if_neg (by omega)

/-! ## Where a plant frame goes (R155, R156, R162) -/

/-- The kinds that have an owner in the part: the three plant orders and HEAD (R157, R162). -/
abbrev plantKinds : List FrameKind := [.target, .hold, .admission, .head]

/-- A frame of a plant kind reaches its owner, whatever becomes of other kinds. -/
theorem consumeOwned_plant (s : State) (p : Port) (f : Frame) (k : FrameKind) (hk : f.kind = kindCode k)
    (plant : k ∈ plantKinds) (others : State → State) : s.consumeOwned p f others = s.actOn p f .consume := by
  have owner := kindOf_kindCode k
  fin_cases plant <;> simp only [State.actOn, State.consumeFrame, State.consumeOwned, hk, owner]

theorem actOn_target (s : State) (p : Port) (f : Frame) (h : f.kind = kindCode .target) :
    s.actOn p f .consume = s.consumeTarget p f := by
  simp only [State.actOn, State.consumeFrame, State.consumeOwned, h, kindOf_kindCode]

theorem actOn_hold (s : State) (p : Port) (f : Frame) (h : f.kind = kindCode .hold) :
    s.actOn p f .consume = s.consumeHold p f := by
  simp only [State.actOn, State.consumeFrame, State.consumeOwned, h, kindOf_kindCode]

theorem actOn_admission (s : State) (p : Port) (f : Frame) (h : f.kind = kindCode .admission) :
    s.actOn p f .consume = s.consumeAdmit p f := by
  simp only [State.actOn, State.consumeFrame, State.consumeOwned, h, kindOf_kindCode]

theorem actOn_head (s : State) (p : Port) (f : Frame) (h : f.kind = kindCode .head) :
    s.actOn p f .consume = s.consumeHead p f := by
  simp only [State.actOn, State.consumeFrame, State.consumeOwned, h, kindOf_kindCode]

/-- The command that brings a frame on the dispatch port is the reception of that frame (R154). -/
theorem exec_dispatchFrame (c : Instr) (f : Frame) (s : State) (h : c.dispatchFrame = some f) :
    exec c s = .next (s.receiveOn .u f) := by
  unfold Instr.dispatchFrame at h
  split at h <;> cases h <;> rfl

/-- A plant frame for the station address is counted and reaches its owner (R155, R156). -/
theorem exec_plantFrame (c : Instr) (s : State) (dest src : Byte) (k : FrameKind) (p : List Byte)
    (hc : c.dispatchFrame = some ⟨dest, src, kindCode k, p⟩) (plant : k ∈ plantKinds) (h : s.hears dest p) :
    exec c s = .next (s.counted.actOn .u ⟨dest, src, kindCode k, p⟩ .consume) := by
  obtain ⟨hp, hfit, hdest⟩ := h
  rw [exec_dispatchFrame c _ s hc, State.receiveOn, whenRunning_of s _ hp, State.receiveFrameU,
    if_pos (by simpa [frameFits] using hfit), classify_own s _ hdest, State.takeOwn,
    consumeOwned_plant _ _ _ k rfl plant]

/-! ## Frames that are not taken (R26, R191) -/

theorem judgeOrder_accepts (s : State) (n : Nat) (src : Byte) (accept : State → State)
    (h : s.acceptsOrders src) : s.judgeOrder n src accept = accept s := by
  obtain ⟨addr, source, remote⟩ := h
  rw [State.judgeOrder, if_neg (by simp [addr, source]), if_pos remote]

/-- A plant order that is not the dispatch centre's under REMOTE is one ORDER_REFUSED (R26). -/
theorem judgeOrder_refuses (s : State) (n : Nat) (src : Byte) (accept : State → State)
    (h : ¬ s.acceptsOrders src) : s.judgeOrder n src accept = s.detect ⟨.orderRefused, n,
      if s.settings.dispatchAddr = 0 ∨ src.toNat ≠ s.settings.dispatchAddr then .orderSource else .none⟩ := by
  unfold State.judgeOrder
  by_cases source : s.settings.dispatchAddr = 0 ∨ src.toNat ≠ s.settings.dispatchAddr
  · rw [if_pos source, if_pos source]
  · have remote : ¬ s.isRemote = true := fun r => h ⟨by tauto, by tauto, r⟩
    rw [if_neg source, if_neg source, if_neg remote]
    rfl

theorem errorIndex_eq (f : Frame) (p : Port) : errorIndex f p = if p = .u then 0 else f.src.toNat := by
  cases p <;> rfl

/-- A payload of one of the four plant kinds with a wrong length or a field out of range (section 11.2). -/
def MalformedPlant (k : FrameKind) (p : List Byte) : Prop :=
  k = .target ∧ (p.length ≠ 4 ∨ ∃ a b r1 r0, p = [a, b, r1, r0] ∧ 9999 < nat16 r1 r0)
    ∨ k = .hold ∧ (p.length ≠ 1 ∨ ∃ b, p = [b] ∧ 1 < b.toNat)
    ∨ k = .admission ∧ (p.length ≠ 2 ∨ ∃ m b, p = [m, b] ∧ (m.toNat = 0 ∨ 8 < m.toNat ∨ 1 < b.toNat))
    ∨ k = .head ∧ (p.length ≠ 4
      ∨ ∃ u1 u0 l1 l0, p = [u1, u0, l1, l0] ∧ (30000 < nat16 u1 u0 ∨ 30000 < nat16 l1 l0))

/-- A well-formed plant order (section 11.2). -/
def PlantOrder (k : FrameKind) (p : List Byte) : Prop := k ≠ .head ∧ ∃ a b d e,
  k = .target ∧ p = [a, b, d, e] ∧ nat16 d e ≤ 9999 ∨ k = .hold ∧ p = [a] ∧ a.toNat ≤ 1
    ∨ k = .admission ∧ p = [a, b] ∧ 1 ≤ a.toNat ∧ a.toNat ≤ 8 ∧ b.toNat ≤ 1

theorem actOn_malformed (x : State) (p : Port) (f : Frame) (k : FrameKind) (kind : f.kind = kindCode k)
    (bad : MalformedPlant k f.payload) : x.actOn p f .consume = x.unknownKind p f := by
  rcases bad with ⟨rfl, bad⟩ | ⟨rfl, bad⟩ | ⟨rfl, bad⟩ | ⟨rfl, bad⟩
  · rw [actOn_target x p f kind, State.consumeTarget, targetFields_malformed _ bad]
  · rw [actOn_hold x p f kind, State.consumeHold, holdField_malformed _ bad]
  · rw [actOn_admission x p f kind, State.consumeAdmit, admitFields_malformed _ bad]
  · rw [actOn_head x p f kind, State.consumeHead, headFields_malformed _ bad]

theorem actOn_refused (x : State) (p : Port) (f : Frame) (k : FrameKind) (kind : f.kind = kindCode k)
    (valid : PlantOrder k f.payload) (refused : ¬ x.acceptsOrders f.src) :
    x.actOn p f .consume = x.detect ⟨.orderRefused, errorIndex f p,
      if x.settings.dispatchAddr = 0 ∨ f.src.toNat ≠ x.settings.dispatchAddr then .orderSource else .none⟩ := by
  obtain ⟨-, a, b, d, e, ⟨rfl, payload, rate⟩ | ⟨rfl, payload, flag⟩ | ⟨rfl, payload, low, high, flag⟩⟩ := valid
  · rw [actOn_target x p f kind, State.consumeTarget, payload, targetFields_valid a b d e rate]
    exact judgeOrder_refuses x _ _ _ refused
  · rw [actOn_hold x p f kind, State.consumeHold, payload, holdField_valid a flag]
    exact judgeOrder_refuses x _ _ _ refused
  · have machine : a.toNat = unitNumber ⟨a.toNat - 1, by omega⟩ := by
      simp only [unitNumber]
      omega
    rw [actOn_admission x p f kind, State.consumeAdmit, payload, admitFields_valid a b _ machine flag]
    exact judgeOrder_refuses x _ _ _ refused

/-- Settles O20: a malformed payload has no fields, and an order that is not accepted is refused whatever it
asks for; on port U both reach the owner through the station address. -/
theorem badPlantFramesChangeNothing : Obligations.BadPlantFramesChangeNothing := by
  unfold Obligations.BadPlantFramesChangeNothing
  intro malformed order sub
  have consumed : ∀ (x : State) (p : Port) (f : Frame) (k : FrameKind), f.kind = kindCode k → x.ownHasPlace →
      let t := x.actOn p f .consume
      (malformed k f.payload → x.Records t (detection .frameKindUnknown (if p = .u then 0 else f.src.toNat))
          ∧ Unchanged [.errors, .port] x t)
      ∧ (order k f.payload → ¬ x.acceptsOrders f.src →
        x.Records t ⟨.orderRefused, if p = .u then 0 else f.src.toNat, sub x f.src⟩
          ∧ Unchanged [.errors, .port] x t) := by
    intro x p f k kind place
    rw [← errorIndex_eq f p]
    refine ⟨fun bad => ?_, fun valid refused => ?_⟩
    · rw [actOn_malformed x p f k kind bad]
      exact detect_records x _ place
    · rw [actOn_refused x p f k kind valid refused]
      exact detect_records x _ place
  refine ⟨fun s dest src k p c command hears place => ?_, consumed⟩
  have taken : c.dispatchFrame = some ⟨dest, src, kindCode k, p⟩ ∧ k ∈ plantKinds := by
    rcases command with ⟨rfl, rfl⟩ | ⟨rfl, rfl⟩ | ⟨rfl, rfl⟩ | ⟨rfl, rfl⟩ <;> exact ⟨rfl, by decide⟩
  have run := exec_plantFrame c s dest src k p taken.1 taken.2 hears
  obtain ⟨bad, refused⟩ := consumed s.counted .u ⟨dest, src, kindCode k, p⟩ k rfl place
  exact ⟨fun m => ⟨_, run, bad m⟩, fun o n => ⟨_, run, refused o n⟩⟩

end Sys2Proof.Machine
end

section
/-! PROOFS. Accepted plant orders and the ramp step: TARGET, HOLD, ADMIT and RAMP_STEP (R27 to R32). -/
namespace Sys2Proof.Machine

/-! ## TARGET (R27) -/

/-- The target block that an order of a rate leaves, clamped to the final target `tf` (R27, R31). -/
def TargetRamp.ordered (t : TargetRamp) (tf order : Int) (rate : Nat) (now : Time) (interval : Nat) : TargetRamp :=
  let te := if rate = 0 ∧ t.holdFlag = false then tf else t.te
  { t with
    tf := tf, te := te, rate := rate, clamped := decide (tf ≠ order), orderRef := now, staleOrder := false
    rampNext := if t.holdFlag = true ∨ rate = 0 ∨ te = tf then none else some (t.rampNext.getD (now + interval)) }

/-- The final target that an order is clamped to (R27, R30). -/
def State.clampOrder (s : State) (order : Int) : Int := clampInt s.settings.plantMin s.settings.plantMax order

/-- The target block after an order (R27). -/
def State.orderedTarget (s : State) (order : Int) (rate : Nat) : TargetRamp :=
  s.target.ordered (s.clampOrder order) order rate s.now s.settings.rampInterval

/-- The report of an order that the limits clamp (R27). -/
def State.tellClamped (s : State) (n : Nat) (order : Int) : State :=
  if s.clampOrder order ≠ order then s.detectAt .targetClamped n else s

theorem tellClamped_only (s : State) (n : Nat) (order : Int) : ∃ e own tx,
    s.tellClamped n order = (s.setErrors e).setPort { s.port with own := own, tx := tx } ∧ e.now = s.errors.now := by
  unfold State.tellClamped
  split
  · exact detectAt_only s _ _
  · exact ⟨s.errors, s.port.own, s.port.tx, rfl, rfl⟩

theorem frame_tellClamped (s : State) (n : Nat) (order : Int) :
    Unchanged [.errors, .port] s (s.tellClamped n order) := by
  obtain ⟨e, own, tx, told, -⟩ := tellClamped_only s n order
  rw [told]
  exact (frame_setErrors s e).seq (frame_setPort _ _)

theorem storeTarget_eq (s : State) (n : Nat) (order : Int) (rate : Nat) :
    s.storeTarget n order rate = (s.tellClamped n order).setTarget (s.orderedTarget order rate) := by
  obtain ⟨e, own, tx, told, now⟩ := tellClamped_only s n order
  have stored : s.storeTarget n order rate = (s.tellClamped n order).setTarget
      ((s.tellClamped n order).target.ordered (s.clampOrder order) order rate (s.tellClamped n order).now
        (s.tellClamped n order).settings.rampInterval) := by
    unfold State.storeTarget TargetRamp.ordered State.tellClamped State.clampOrder
    simp only
    generalize (if clampInt _ _ order ≠ order then s.detectAt .targetClamped n else s) = w
    congr 2
    cases w.target.rampNext <;> rfl
  rw [stored, told]
  simp only [State.orderedTarget, State.now, State.setPort_errors, State.setErrors_errors, now]
  rfl

/-- What an accepted order hands to the solver: a full trigger when T_f changed, else a load-only one when T_e
changed (R27). -/
def State.handOrder (x : State) (old new : TargetRamp) : State :=
  if new.tf ≠ old.tf then x.fullTrigger .target else if new.te ≠ old.te then x.loadTrigger else x

theorem frame_handOrder (x : State) (old new : TargetRamp) : Unchanged [.solver] x (x.handOrder old new) := by
  unfold State.handOrder
  split
  · exact frame_fullTrigger x _
  · split
    · exact frame_loadTrigger x
    · exact Unchanged.refl _ x

theorem acceptTarget_eq (s : State) (n : Nat) (order : Int) (rate : Nat) :
    s.acceptTarget n order rate = ((s.tellClamped n order).setTarget (s.orderedTarget order rate)).handOrder
      s.target (s.orderedTarget order rate) := by
  unfold State.acceptTarget
  rw [storeTarget_eq]
  rfl

/-- The report of a clamped order is nothing that a trigger reads. -/
theorem tellClamped_sees (s : State) (n : Nat) (order : Int) (x : TargetRamp) :
    SolverSees (s.setTarget x) ((s.tellClamped n order).setTarget x) := by
  obtain ⟨e, own, tx, told, now⟩ := tellClamped_only s n order
  rw [told]
  refine ⟨rfl, rfl, rfl, rfl, ?_⟩
  simp only [State.snapshot, State.now, State.setTarget_errors, State.setPort_errors, State.setErrors_errors, now]
  rfl

/-- An accepted order (R27): the target block, the trigger, and the report of an order that was clamped. -/
structure State.TakesTarget (s t : State) (n : Nat) (order : Int) (rate : Nat) : Prop where
  target : t.target = s.orderedTarget order rate
  full : t.target.tf ≠ s.target.tf → t.solver = ((s.setTarget t.target).fullTrigger .target).solver
  load : t.target.tf = s.target.tf → t.target.te ≠ s.target.te →
    t.solver = (s.setTarget t.target).loadTrigger.solver
  quiet : t.target.tf = s.target.tf → t.target.te = s.target.te → t.solver = s.solver
  told : s.clampOrder order ≠ order → s.Records t (detection .targetClamped n)
  untold : s.clampOrder order = order → t.port = s.port ∧ t.errors = s.errors
  unchanged : Unchanged [.target, .solver, .errors, .port] s t

theorem acceptTarget_takes (s : State) (n : Nat) (order : Int) (rate : Nat) (place : s.ownHasPlace) :
    s.TakesTarget (s.acceptTarget n order rate) n order rate := by
  have sees := tellClamped_sees s n order (s.orderedTarget order rate)
  have told := frame_tellClamped s n order
  rw [acceptTarget_eq]
  have handed := frame_handOrder ((s.tellClamped n order).setTarget (s.orderedTarget order rate)) s.target
    (s.orderedTarget order rate)
  have target : (((s.tellClamped n order).setTarget (s.orderedTarget order rate)).handOrder s.target
      (s.orderedTarget order rate)).target = s.orderedTarget order rate := handed .target (by decide)
  refine ⟨target, ?full, ?load, ?quiet, fun clamped => ?told, fun kept => ?untold, ?unchanged⟩
  case full =>
    rw [target]
    intro moved
    exact (congrArg State.solver (if_pos moved)).trans (fullTrigger_congr sees .target)
  case load =>
    rw [target]
    intro same moved
    exact (congrArg State.solver ((if_neg (not_not.2 same)).trans (if_pos moved))).trans (loadTrigger_congr sees)
  case quiet =>
    rw [target]
    intro same still
    exact (congrArg State.solver ((if_neg (not_not.2 same)).trans (if_neg (not_not.2 still)))).trans
      (told .solver (by decide))
  case told =>
    have records : s.Records (s.tellClamped n order) (detection .targetClamped n) := by
      rw [State.tellClamped, if_pos clamped]
      exact (detect_records s _ place).1
    exact records.congr rfl rfl rfl (handed .errors (by decide)) (handed .port (by decide))
  case untold =>
    have silent : s.tellClamped n order = s := if_neg (not_not.2 kept)
    rw [silent] at handed ⊢
    exact ⟨handed .port (by decide), handed .errors (by decide)⟩
  case unchanged => exact ((told.seq (frame_setTarget _ _)).seq handed).mono (by decide)

/-- Where the report of a clamped order goes is all that its station index decides (R162). -/
theorem acceptTarget_station (s : State) (n m : Nat) (order : Int) (rate : Nat) (kept : s.clampOrder order = order) :
    s.acceptTarget n order rate = s.acceptTarget m order rate := by
  simp only [acceptTarget_eq, State.tellClamped, kept, ne_eq, not_true_eq_false, if_false]

theorem actOn_target_accepted (s : State) (p : Port) (f : Frame) (t1 t0 r1 r0 : Byte)
    (kind : f.kind = kindCode .target) (payload : f.payload = [t1, t0, r1, r0]) (slow : nat16 r1 r0 ≤ 9999)
    (accepts : s.acceptsOrders f.src) :
    s.actOn p f .consume = s.acceptTarget (errorIndex f p) (int16 t1 t0) (nat16 r1 r0) := by
  rw [actOn_target s p f kind, State.consumeTarget, payload, targetFields_valid t1 t0 r1 r0 slow]
  exact judgeOrder_accepts s _ _ _ accepts

/-- Settles O21: on either port the order reaches `acceptTarget`, which differs only in the station of a report. -/
theorem targetIsTaken : Obligations.TargetIsTaken := by
  refine ⟨fun s dest src t1 t0 r1 r0 hears accepts place slow limits => ?_,
    fun s f t1 t0 r1 r0 kind payload slow accepts place => ?_⟩
  · intro tf te
    have run := exec_plantFrame (.target .u dest src [t1, t0, r1, r0]) s dest src .target _ rfl (by decide) hears
    rw [actOn_target_accepted s.counted .u ⟨dest, src, kindCode .target, _⟩ t1 t0 r1 r0 rfl rfl slow accepts] at run
    have clamp : s.counted.clampOrder (int16 t1 t0) = tf := clampInt_eq _ _ _ limits
    have counted : ∀ x, SolverSees (s.setTarget x) (s.counted.setTarget x) := fun x =>
      .of_unchanged ((frame_setPort (s.setTarget x) s.counted.port).mono (by decide))
    obtain ⟨target, full, load, quiet, told, untold, unchanged⟩ :=
      acceptTarget_takes s.counted 0 (int16 t1 t0) (nat16 r1 r0) place
    rw [State.orderedTarget, clamp] at target
    rw [clamp] at told untold
    refine ⟨_, run, target, fun moved => ?_, fun same moved => ?_, fun same still => ?_, told, untold,
      ((counted_unchanged s).seq unchanged).mono (by decide)⟩
    · exact (full (by rw [target]; exact moved)).trans (fullTrigger_congr (counted _) .target)
    · exact (load (by rw [target]; exact same) (by rw [target]; exact moved)).trans (loadTrigger_congr (counted _))
    · exact quiet (by rw [target]; exact same) (by rw [target]; exact still)
  · intro t u
    have onU : u = s.acceptTarget 0 (int16 t1 t0) (nat16 r1 r0) :=
      actOn_target_accepted s .u f t1 t0 r1 r0 kind payload slow accepts
    have onD : t = s.acceptTarget f.src.toNat (int16 t1 t0) (nat16 r1 r0) :=
      actOn_target_accepted s .d f t1 t0 r1 r0 kind payload slow accepts
    have takesU := acceptTarget_takes s 0 (int16 t1 t0) (nat16 r1 r0) place
    have takesD := acceptTarget_takes s f.src.toNat (int16 t1 t0) (nat16 r1 r0) place
    rw [← onU] at takesU
    rw [← onD] at takesD
    have target : t.target = u.target := takesD.target.trans takesU.target.symm
    have clamped : u.target.clamped = decide (s.clampOrder (int16 t1 t0) ≠ int16 t1 t0) := by
      rw [takesU.target]
      rfl
    refine ⟨target, ?_, fun kept => ?_, fun moved => takesD.told ?_, takesD.unchanged⟩
    · obtain ⟨-, full, load, quiet, -⟩ := takesD
      obtain ⟨-, full', load', quiet', -⟩ := takesU
      rw [target] at full load quiet
      by_cases final : u.target.tf = s.target.tf
      · by_cases effective : u.target.te = s.target.te
        · exact (quiet final effective).trans (quiet' final effective).symm
        · exact (load final effective).trans (load' final effective).symm
      · exact (full final).trans (full' final).symm
    · rw [onU, onD]
      exact acceptTarget_station s _ _ _ _ (by simpa [kept] using clamped)
    · simpa [moved] using clamped

/-! ## HOLD and ADMIT (R28, R29) -/

theorem acceptHold_same (s : State) (on : Bool) (h : s.target.holdFlag = on) : s.acceptHold on = s := if_pos h

theorem acceptHold_on (s : State) (h : s.target.holdFlag = false) :
    s.acceptHold true = (s.setTarget { s.target with holdFlag := true, rampNext := none }).loadTrigger := by
  simp [State.acceptHold, h]

/-- The target block that HOLD off leaves (R28). -/
def State.releasedTarget (s : State) : TargetRamp := { s.target with
  holdFlag := false
  te := if s.target.rate = 0 then s.target.tf else s.target.te
  rampNext := if s.target.te ≠ s.target.tf ∧ s.target.rate ≠ 0 then some (s.now + s.settings.rampInterval)
    else s.target.rampNext }

theorem acceptHold_off (s : State) (h : s.target.holdFlag = true) :
    s.acceptHold false = (s.setTarget s.releasedTarget).loadTrigger := by
  unfold State.acceptHold State.releasedTarget
  by_cases same : s.target.te = s.target.tf
  · simp [h, same]
  · by_cases rate : s.target.rate = 0
    · simp [h, same, rate, State.setTargets]
    · simp [h, same, rate, State.startRamp]
      rfl

theorem acceptAdmit_same (s : State) (u : UnitId) (a : Bool) (h : (s.tracker u).admitted = a) :
    s.acceptAdmit u a = s := if_pos h

/-- A change of the admission flag (R29): the flag, the entry that a withdrawal takes, the trigger. -/
theorem acceptAdmit_changes (s : State) (u : UnitId) (a : Bool) (h : (s.tracker u).admitted ≠ a) :
    s.acceptAdmit u a = ((s.setTracker u { s.tracker u with admitted := a }).setQueue
      (if a = true then s.queue else s.queue.filter (fun e => e.unit != u))).fullTrigger .availability := by
  unfold State.acceptAdmit
  rw [if_neg h]
  cases a <;> rfl

theorem exec_hold_accepted (s : State) (dest src b : Byte) (hears : s.hears dest [b])
    (accepts : s.acceptsOrders src) (flag : b.toNat ≤ 1) :
    exec (.hold .u dest src [b]) s = .next (s.counted.acceptHold (b == 1)) := by
  rw [exec_plantFrame _ s dest src .hold [b] rfl (by decide) hears, actOn_hold _ _ _ rfl, State.consumeHold]
  simp only [holdField_valid b flag]
  exact congrArg Host.Outcome.next (judgeOrder_accepts s.counted _ _ _ accepts)

theorem exec_admission_accepted (s : State) (dest src m b : Byte) (u : UnitId) (hears : s.hears dest [m, b])
    (accepts : s.acceptsOrders src) (machine : m.toNat = unitNumber u) (flag : b.toNat ≤ 1) :
    exec (.admission .u dest src [m, b]) s = .next (s.counted.acceptAdmit u (b == 1)) := by
  rw [exec_plantFrame _ s dest src .admission [m, b] rfl (by decide) hears, actOn_admission _ _ _ rfl,
    State.consumeAdmit]
  simp only [admitFields_valid m b u machine flag]
  exact congrArg Host.Outcome.next (judgeOrder_accepts s.counted _ _ _ accepts)

/-- A counted frame that moves the target block and is a load-only trigger. -/
theorem loadTrigger_counted (s : State) (x : TargetRamp) :
    let t := (s.counted.setTarget x).loadTrigger
    t.target = x ∧ t.solver = (s.setTarget x).loadTrigger.solver ∧ t.port = s.counted.port
      ∧ Unchanged [.target, .solver, .port] s t := by
  have frame := frame_loadTrigger (s.counted.setTarget x)
  have sees : SolverSees (s.setTarget x) (s.counted.setTarget x) :=
    .of_unchanged ((frame_setPort (s.setTarget x) s.counted.port).mono (by decide))
  exact ⟨frame .target (by decide), loadTrigger_congr sees, frame .port (by decide),
    (((counted_unchanged s).seq (frame_setTarget _ x)).seq frame).mono (by decide)⟩

/-- What a change of the admission flag leaves (R29). -/
theorem acceptAdmit_leaves (s : State) (u : UnitId) (a : Bool) (h : (s.tracker u).admitted ≠ a) :
    let t := s.acceptAdmit u a
    t.trackers = upd s.trackers u { s.tracker u with admitted := a }
      ∧ t.queue = (if a = true then s.queue else s.queue.filter (fun e => e.unit != u))
      ∧ t.solver = (((s.setTrackers t.trackers).setQueue t.queue).fullTrigger .availability).solver
      ∧ Unchanged [.trackers, .queue, .solver] s t := by
  rw [acceptAdmit_changes s u a h]
  generalize (if a = true then _ else _) = q
  have trigger := frame_fullTrigger ((s.setTracker u { s.tracker u with admitted := a }).setQueue q) .availability
  have trackers := trigger .trackers (by decide)
  have queue := trigger .queue (by decide)
  refine ⟨trackers, queue, ?_, (((frame_setTracker s u _).seq (frame_setQueue _ q)).seq trigger).mono (by decide)⟩
  rw [show _ = _ from trackers, show _ = _ from queue]
  rfl

/-- Settles O22: the flag as it stands changes nothing; a change moves the target block (HOLD), or the tracker and
the start queue (ADMIT), before its trigger. -/
theorem holdAndAdmitAreTaken : Obligations.HoldAndAdmitAreTaken := by
  refine ⟨fun s dest src b hears accepts flag => ⟨_, exec_hold_accepted s dest src b hears accepts flag, ?_⟩,
    fun s dest src m b u hears accepts machine flag =>
      ⟨_, exec_admission_accepted s dest src m b u hears accepts machine flag, ?_⟩⟩
  · by_cases same : s.target.holdFlag = (b == 1)
    · rw [acceptHold_same s.counted _ same]
      refine ⟨fun _ => ⟨rfl, rfl⟩, fun off on => ?_, fun on off => ?_, fun h => absurd same h, rfl,
        (counted_unchanged s).mono (by decide)⟩
      · simp [off, on] at same
      · simp [off, on] at same
    · have bit : b = 0 ∨ b = 1 := by bv_omega
      rcases bit with rfl | rfl
      · have held : s.target.holdFlag = true := by simpa using same
        obtain ⟨target, solver, port, frame⟩ := loadTrigger_counted s s.releasedTarget
        rw [show ((0 : Byte) == 1) = false from rfl, acceptHold_off s.counted held]
        refine ⟨fun h => absurd h same, fun _ on => absurd on (by decide), fun _ _ => target, fun _ => ?_, port,
          frame⟩
        exact solver.trans (by rw [← target]; rfl)
      · have free : s.target.holdFlag = false := by simpa using same
        obtain ⟨target, solver, port, frame⟩ :=
          loadTrigger_counted s { s.target with holdFlag := true, rampNext := none }
        rw [show ((1 : Byte) == 1) = true from rfl, acceptHold_on s.counted free]
        refine ⟨fun h => absurd h same, fun _ _ => target, fun _ off => absurd off (by decide), fun _ => ?_, port,
          frame⟩
        exact solver.trans (by rw [← target]; rfl)
  · by_cases same : (s.tracker u).admitted = (b == 1)
    · rw [acceptAdmit_same s.counted u _ same]
      refine ⟨?_, fun _ _ => rfl, ?_, fun _ => rfl, fun h => absurd same h, rfl,
        (counted_unchanged s).mono (by decide)⟩
      · rw [← same]
        rfl
      · rw [if_neg (by rintro ⟨on, rfl⟩; simp [on] at same)]
        rfl
    · obtain ⟨trackers, queue, solver, frame⟩ := acceptAdmit_leaves s.counted u (b == 1) same
      refine ⟨?_, fun v hv => ?_, ?_, fun h => absurd h same, fun _ => ?_, frame .port (by decide),
        ((counted_unchanged s).seq frame).mono (by decide)⟩
      · rw [State.tracker, trackers, upd_get_self]
        rfl
      · rw [State.tracker, trackers, upd_get_ne _ _ (Ne.symm hv)]
        rfl
      · have bit : b = 0 ∨ b = 1 := by bv_omega
        rw [queue, show s.counted.queue = s.queue from rfl]
        rcases bit with rfl | rfl
        · have stood : (s.tracker u).admitted = true := by simpa using same
          simp [stood]
        · simp
      · refine solver.trans (fullTrigger_congr (.of_unchanged ?_) .availability)
        exact (frame_setPort ((s.setTrackers _).setQueue _) s.counted.port).mono (by decide)

/-! ## The ramp step (R31, R32) -/

theorem exec_rampStep_due (s : State) (e : Time) (hp : s.processing ≠ .deviceReset)
    (next : s.target.rampNext = some e) (due : e ≤ s.now) : exec .rampStep s = .next (s.takeRampStep e) := by
  refine congrArg Host.Outcome.next ((whenRunning_of s _ hp).trans ?_)
  simp only [next, if_pos due]

theorem rampSize_eq (s : State) : s.rampSize = ((s.target.rate * s.settings.rampInterval : Nat) : Int) := by
  simp [State.rampSize]

/-- A step that reaches the final target lands on it; any other is a whole step in its direction (R32). -/
theorem rampToward_cases (tf te : Int) (size : Nat) :
    ((tf - te).natAbs ≤ size → rampToward tf te size = tf)
      ∧ (size < (tf - te).natAbs → te < tf → rampToward tf te size = te + size ∧ te + size ≠ tf)
      ∧ (size < (tf - te).natAbs → tf < te → rampToward tf te size = te - size ∧ te - size ≠ tf) := by
  unfold rampToward
  refine ⟨fun near => if_pos (by omega), fun far below => ?_, fun far above => ?_⟩
  · rw [if_neg (by omega), if_pos below]
    exact ⟨rfl, by omega⟩
  · rw [if_neg (by omega), if_neg (by omega)]
    exact ⟨rfl, by omega⟩

/-- The target block after a ramp step (R31, R32). -/
def State.steppedTarget (s : State) (e : Time) : TargetRamp :=
  let te := rampToward s.target.tf s.target.te s.rampSize
  { s.target with
    te := te, rampNext := if te = s.target.tf then none else some (e + s.settings.rampInterval) }

theorem takeRampStep_eq (s : State) (e : Time) : s.takeRampStep e = (s.setTarget (s.steppedTarget e)).loadTrigger :=
  rfl

/-- Settles O28: the three cases of `rampToward`. -/
theorem rampStepMovesTowardTheTarget : Obligations.RampStepMovesTowardTheTarget := by
  intro s e hp next due size
  obtain ⟨near, below, above⟩ := rampToward_cases s.target.tf s.target.te size
  have frame := frame_loadTrigger (s.setTarget (s.steppedTarget e))
  have target : (s.takeRampStep e).target = s.steppedTarget e := frame .target (by decide)
  have stepped : s.steppedTarget e = { s.target with
      te := rampToward s.target.tf s.target.te size
      rampNext := if rampToward s.target.tf s.target.te size = s.target.tf then none
        else some (e + s.settings.rampInterval) } := by
    rw [State.steppedTarget, rampSize_eq]
  refine ⟨_, exec_rampStep_due s e hp next due, fun h => ?_, fun h order => ?_, fun h order => ?_, ?_,
    (frame_setTarget s _).seq frame⟩
  · rw [target, stepped, near h, if_pos rfl]
  · obtain ⟨moved, short⟩ := below h order
    rw [target, stepped, moved, if_neg short]
  · obtain ⟨moved, short⟩ := above h order
    rw [target, stepped, moved, if_neg short]
  · rw [target, takeRampStep_eq]

end Sys2Proof.Machine
end

section
/-! PROOFS. Authority transitions: what leaving and entering REMOTE do, and the local/remote line (R19, R24, R25,
R181). -/
namespace Sys2Proof.Machine

/-! ## Leaving and entering REMOTE (R24, R25) -/

/-- The solver after the solves in flight and the latches are dropped (R25, R63). -/
def Solver.dropped (v : Solver) : Solver := { v with
  phase := .idle, fullPending := false, loadPending := false
  discarded := match v.phase with
    | .full _ => satInc v.discarded
    | _ => v.discarded }

theorem dropSolves_eq (s : State) : s.dropSolves = s.setSolver s.solver.dropped := by
  unfold State.dropSolves State.discardSolve Solver.dropped
  cases h : s.solver.phase <;> simp [h]

theorem leaveRemote_eq (s : State) : s.leaveRemote
    = ((((s.setQueue []).setSolver { s.solver.dropped with resolveNext := none }).setLine
        { s.line with orders := s.line.orders.filter (fun q => !q.order.removedOnLeavingRemote) }).clearLastSent).setTarget
          { s.target with holdFlag := false, rampNext := none } := by
  unfold State.leaveRemote
  rw [dropSolves_eq]
  rfl

theorem leaveRemote_line (s : State) : s.leaveRemote.line
    = { s.line with orders := s.line.orders.filter (fun q => !q.order.removedOnLeavingRemote) } := by
  rw [leaveRemote_eq]
  rfl

theorem leaveRemote_leaves (s : State) : s.LeavesRemote s.leaveRemote := by
  rw [leaveRemote_eq]
  refine ⟨rfl, rfl, ?_, fun u => mapUnits_get _ s.trackers u, rfl, ?_⟩
  · refine congrArg (fun keep => { s.line with orders := s.line.orders.filter keep }) (funext fun q => ?_)
    rcases q with ⟨⟨u, k⟩ | ⟨c, k⟩, queuedAt⟩ <;> cases k <;> rfl
  · exact ((((frame_setQueue s _).seq (frame_setSolver _ _)).seq (frame_setLine _ _)).seq
      (frame_setTrackers _ _)).seq (frame_setTarget _ _)

theorem enterRemote_enters (s : State) (limits : s.settings.plantMin ≤ s.settings.plantMax) :
    s.EntersRemote s.enterRemote := by
  have clamp := clampInt_eq s.settings.plantMin s.settings.plantMax s.plantPower limits
  have trigger := frame_fullTrigger (s.setTarget { s.target with
    tf := clampInt s.settings.plantMin s.settings.plantMax s.plantPower
    te := clampInt s.settings.plantMin s.settings.plantMax s.plantPower, rampNext := none, orderRef := s.now }) .authority
  have target := trigger .target (by decide)
  refine ⟨?_, ?_, (frame_setTarget s _).seq trigger⟩
  · rw [← clamp]
    exact target
  · rw [show s.enterRemote.target = _ from target]
    rfl

theorem afterAuthority_same (s : State) : s.afterAuthority s.authority = s := by
  unfold State.afterAuthority
  cases s.authority <;> rfl

theorem afterAuthority_leaves (s : State) (h : s.authority = .localControl) :
    s.afterAuthority .remote = s.leaveRemote := by
  simp only [State.afterAuthority, h]

theorem afterAuthority_enters (s : State) (h : s.authority = .remote) :
    s.afterAuthority .localControl = s.enterRemote := by
  simp only [State.afterAuthority, h]

/-- The effects of a change of what the authority is derived from (R19): none while it stays, those of R25 when
it goes from REMOTE to LOCAL, those of R24 when it goes back. -/
theorem afterAuthority_moves (x : State) (was : Authority) (limits : x.settings.plantMin ≤ x.settings.plantMax) :
    (was = x.authority → x.afterAuthority was = x)
      ∧ (was = .remote → x.authority = .localControl → x.LeavesRemote (x.afterAuthority was))
      ∧ (was = .localControl → x.authority = .remote → x.EntersRemote (x.afterAuthority was)) := by
  refine ⟨fun same => same ▸ afterAuthority_same x, fun before after => ?_, fun before after => ?_⟩
  · rw [before, afterAuthority_leaves x after]
    exact leaveRemote_leaves x
  · rw [before, afterAuthority_enters x after]
    exact enterRemote_enters x limits

theorem authority_remote_iff (s : State) : s.authority = .remote ↔
    s.target.estopLatch = false ∧ s.inputs.localLevel = false ∧ s.target.setting = .remote := by
  unfold State.authority
  cases s.target.estopLatch <;> cases s.inputs.localLevel <;> cases s.target.setting <;> simp

theorem authority_of_latch (s : State) (h : s.target.estopLatch = true) : s.authority = .estop := if_pos h

/-! ## The walk of an authority transition (R110) -/

/-- No walk runs where no tracker state and no converter changes and REMOTE is not entered (R110). -/
theorem walkAfter_still (s t : State) (trackers : ∀ u, (t.tracker u).state = (s.tracker u).state)
    (convs : t.convs = s.convs) (remote : s.isRemote = true ∨ t.isRemote = false) : State.walkAfter s t = t := by
  have still : walkEvent s t = false := by
    have conv : ∀ c, t.conv c = s.conv c := fun c => congrArg (fun v => v.get c) convs
    rcases remote with was | isnt
    · simp [walkEvent, trackers, conv, was]
    · simp [walkEvent, trackers, conv, isnt]
  rw [State.walkAfter, still]
  rfl

/-! ## The local/remote line (R181, R182) -/

theorem exec_localRemote (s : State) (asserted : Bool) (hp : s.processing ≠ .deviceReset) :
    exec (if asserted then .localRemoteAssert else .localRemoteDeassert) s
      = .next (State.walkAfter s ((s.setInputs { s.inputs with
          localLevel := asserted, localFlag := s.inputs.localFlag || asserted }).afterAuthority s.authority)) := by
  have run : exec (if asserted then .localRemoteAssert else .localRemoteDeassert) s
      = .next (s.onLocalLine asserted) := by
    cases asserted <;> rfl
  rw [run, State.onLocalLine]
  cases h : s.processing with
  | deviceReset => exact absurd h hp
  | none | engineReset => rfl

/-- Settles O24: the transition is `afterAuthority`'s; leaving REMOTE moves no tracker's state, so no walk runs. -/
theorem localLineMovesTheAuthority : Obligations.LocalLineMovesTheAuthority := by
  intro s asserted hp limits x
  obtain ⟨stays, leaves, enters⟩ := afterAuthority_moves x s.authority limits
  refine ⟨_, _, exec_localRemote s asserted hp, rfl, stays, fun was now => ⟨leaves was now, ?_⟩, enters,
    fun latch => ⟨authority_of_latch s latch, authority_of_latch x latch⟩, fun free => ?_⟩
  · have left := leaves was now
    refine walkAfter_still s _ (fun u => ?_) (left.unchanged .convs (by decide)) (.inl ((isRemote_eq s).2 was))
    rw [left.trackers u]
    rfl
  · rw [authority_remote_iff]
    exact ⟨fun h => h.2, fun h => ⟨free, h⟩⟩

end Sys2Proof.Machine
end

section
/-! PROOFS. The actions that solve, clear faults and set the authority, as requests with their replies (R19, R20,
R23, R44, R100, R127, R170, R177). -/
namespace Sys2Proof.Machine

/-! ## A change of a tracker with its triggers (R40, R41, R85) -/

/-- The entry that a tracker's leaving takes out of the start queue (R85, R109). -/
theorem lostOnLeaving_iff (e : Entry) (u : UnitId) (old : TState) : e.lostOnLeaving u old = true ↔
    e.unit = u ∧ (old = .idle ∧ e.kind ≠ .changeover ∨ old = .pump ∧ e.kind = .changeover) := by
  cases old <;> simp [Entry.lostOnLeaving]

theorem listed_iff (old new : TState) :
    (old.listed || new.listed) = true ↔ ¬ (old.transitional = true ∧ new.transitional = true) := by
  simp [TState.listed, Classical.or_iff_not_imp_left]

theorem changeTracker_enters (s : State) (u : UnitId) (st : TState) (g : Option ConvId) (cause : FaultCause) :
    s.Enters (s.changeTracker u st g cause) u st g cause := by
  let y := s.moveTracker u st g cause
  have frame : Unchanged [.solver] y (s.changeTracker u st g cause) := by
    unfold State.changeTracker
    simp only
    split <;> split
    · exact (frame_fullTrigger _ _).trans (frame_fullTrigger _ _)
    · exact frame_fullTrigger _ _
    · exact frame_fullTrigger _ _
    · exact Unchanged.refl _ _
  have trackers : (s.changeTracker u st g cause).trackers = y.trackers := frame .trackers (by decide)
  have queue : (s.changeTracker u st g cause).queue = y.queue := frame .queue (by decide)
  have tracker (v : UnitId) : (s.changeTracker u st g cause).tracker v = y.tracker v :=
    congrArg (fun x => x.get v) trackers
  refine ⟨(tracker u).trans (upd_get_self _ _ _), fun v hv => (tracker v).trans (upd_get_ne _ _ (Ne.symm hv)),
    queue.trans (List.filter_congr fun e _ => ?_), y, _, ?_, rfl, ?_⟩
  · rw [Bool.eq_iff_iff, decide_eq_true_iff, ← lostOnLeaving_iff, Bool.not_eq_true']
    exact Bool.eq_false_iff
  · rw [trackers, queue]
    rfl
  · rw [tracker]
    unfold State.changeTracker
    simp only [listed_iff, ite_not]
    rfl

/-! ## The owners' judgements (R23, R44, R100, R127) -/

/-- UNIT_FAULT_CLEAR of a machine at rest that nothing holds (R100). -/
theorem clearUnitFault_clears (s : State) (u : UnitId) (faulted : (s.tracker u).state = .faulted)
    (held : s.held u = false) (valid : (s.tracker u).rptValid = true) (rest : (s.tracker u).rptMode = .atRest) :
    s.clearUnitFault u
      = (s.changeTracker u (if (s.tracker u).rptReady = true then .idle else .notReady), .ok []) := by
  simp [State.clearUnitFault, faulted, held, valid, rest]

theorem clearUnitFault_sound (s : State) (u : UnitId) (sound : (s.tracker u).state ≠ .faulted) :
    s.clearUnitFault u = (s, .ok []) := if_pos sound

theorem clearUnitFault_held (s : State) (u : UnitId) (faulted : (s.tracker u).state = .faulted)
    (held : s.held u = true) : s.clearUnitFault u = (s, .refused .lineAsserted) := by
  simp [State.clearUnitFault, faulted, held]

theorem clearUnitFault_moving (s : State) (u : UnitId) (faulted : (s.tracker u).state = .faulted)
    (held : s.held u = false) (moving : ¬ ((s.tracker u).rptValid = true ∧ (s.tracker u).rptMode = .atRest)) :
    s.clearUnitFault u = (s, .refused .notAtRest) := by
  have unrest : (s.tracker u).rptValid = false ∨ (s.tracker u).rptMode ≠ .atRest := by
    rw [← Bool.not_eq_true]
    tauto
  simp [State.clearUnitFault, faulted, held, unrest]

theorem clearConverter_clears (s : State) (c : ConvId) (faulted : (s.conv c).state = .faulted)
    (valid : (s.conv c).rptValid = true) (idle : (s.conv c).rptMode = .idle) :
    s.clearConverter c = (State.walkAfter s (s.changeConv c .free), .ok []) := by
  simp [State.clearConverter, faulted, valid, idle]

theorem clearConverter_sound (s : State) (c : ConvId) (sound : (s.conv c).state ≠ .faulted) :
    s.clearConverter c = (s, .ok []) := if_pos sound

theorem clearConverter_busy (s : State) (c : ConvId) (faulted : (s.conv c).state = .faulted)
    (busy : ¬ ((s.conv c).rptValid = true ∧ (s.conv c).rptMode = .idle)) :
    s.clearConverter c = (s, .refused .notAtRest) := by
  rw [State.clearConverter, if_neg (not_not.2 faulted), if_neg busy]

theorem changeConv_enters (s : State) (c : ConvId) (st : ConvState) (cause : ConvCause) :
    s.ConvEnters (s.changeConv c st cause) c st cause := by
  refine ⟨(changeConv_conv s c st cause).trans ?_, fun j hj => changeConv_ne s st cause hj⟩
  cases st <;> simp [ConvState.timed]

theorem solveNow_remote (s : State) (h : s.isRemote = true) : s.solveNow = (s.fullTrigger .manual, .ok []) :=
  if_pos h

theorem solveNow_away (s : State) (h : s.isRemote = false) : s.solveNow = (s, .refused .notRemote) :=
  if_neg (by simp [h])

theorem clearEstop_free (s : State) (h : s.target.estopLatch = false) : s.clearEstop = (s, .ok []) := if_pos h

theorem clearEstop_held (s : State) (h : s.target.estopLatch = true) (level : s.inputs.estopLevel = true) :
    s.clearEstop = (s, .refused .lineAsserted) := by
  simp [State.clearEstop, h, level]

theorem clearEstop_clears (s : State) (h : s.target.estopLatch = true) (level : s.inputs.estopLevel = false) :
    s.clearEstop = (s.setTarget { s.target with estopLatch := false, setting := .localControl }, .ok []) := by
  simp [State.clearEstop, h, level]

/-! ## The requests (R170, R177) -/

/-- An action that begins no reset: its owner's effect, then the reply. -/
theorem action_takes (s : State) (src : Byte) (req : BitVec 16) (a i : Byte) (c : Instr) (x : State) (r : Reply)
    (h : s.takesRequests) (run : exec c s = .next (s.whenRunning (fun x => x.request src req 4 a i [])))
    (acts : s.counted.act a.toNat i.toNat [] = ((x, r), .nothing)) :
    ∃ t, exec c s = .next t ∧ x.Answers t src req r := by
  obtain ⟨t, asked, answers⟩ := request_answers s src req 4 a i [] x r h (by decide) acts
  exact ⟨t, run.trans (congrArg Host.Outcome.next asked), answers⟩

theorem convOf_eq_some (n : Nat) (c : ConvId) (h : n = convNumber c) : convOf n = some c := by
  subst h
  fin_cases c <;> rfl

theorem act_solveNow (s : State) (n : Nat) : s.act 1 n [] = (s.solveNow, .nothing) := rfl

theorem act_estopClear (s : State) (n : Nat) : s.act 4 n [] = (s.clearEstop, .nothing) := rfl

theorem act_unitFault (s : State) (n : Nat) (u : UnitId) (h : n = unitNumber u) :
    s.act 2 n [] = (s.clearUnitFault u, .nothing) := by
  simp only [State.act, (unitOf_eq_some n u).2 h, whenBare, if_true]

theorem act_unitFault_none (s : State) (n : Nat) (h : n = 0 ∨ 8 < n) : s.act 2 n [] = ((s, .badIndex), .nothing) := by
  simp only [State.act, show unitOf n = none from dif_neg (by omega)]

theorem act_converter (s : State) (n : Nat) (c : ConvId) (h : n = convNumber c) (fitted : (s.conv c).state ≠ .absent) :
    s.act 3 n [] = (s.clearConverter c, .nothing) := by
  simp only [State.act, convOf_eq_some n c h, whenBare, fitted, if_true, if_false]

theorem act_converter_absent (s : State) (n : Nat) (c : ConvId) (h : n = convNumber c)
    (absent : (s.conv c).state = .absent) : s.act 3 n [] = ((s, .badIndex), .nothing) := by
  simp only [State.act, convOf_eq_some n c h, absent, if_true]

theorem act_converter_none (s : State) (n : Nat) (h : n = 0 ∨ 2 < n) : s.act 3 n [] = ((s, .badIndex), .nothing) := by
  simp only [State.act, show convOf n = none from dif_neg (by omega)]

theorem act_authority (s : State) (b : Byte) (h : b.toNat ≤ 1) :
    s.act 5 b.toNat [] = ((s.setAuthority (if b = 0 then .remote else .localControl), .ok []), .nothing) := by
  have bit : b = 0 ∨ b = 1 := by bv_omega
  rcases bit with rfl | rfl <;> rfl

theorem act_authority_bad (s : State) (n : Nat) (h : 1 < n) : s.act 5 n [] = ((s, .badValue), .nothing) := by
  obtain ⟨k, rfl⟩ := Nat.exists_eq_add_of_le' h
  rfl

/-- Settles O57: each action's clauses are those of its owner's judgement. -/
theorem actionsActOrAreRefused : Obligations.ActionsActOrAreRefused := by
  intro s src req index h takes
  have none_of (n : Nat) (out : index = 0 ∨ n < index.toNat) : index.toNat = 0 ∨ n < index.toNat :=
    out.imp (congrArg BitVec.toNat) id
  refine ⟨fun remote => ?_, fun away => ?_, fun out => ?_, fun u hu => ?_, fun out => ?_, fun c hc => ?_,
    fun free => ?_, fun latched => ?_, fun bad => ?_, fun bit limits => ?_⟩
  · exact action_takes s src req 1 0 _ _ _ h rfl (solveNow_remote s.counted remote ▸ act_solveNow _ _)
  · exact action_takes s src req 1 0 _ _ _ h rfl (solveNow_away s.counted away ▸ act_solveNow _ _)
  · exact action_takes s src req 2 index _ _ _ h rfl (act_unitFault_none _ _ (none_of 8 out))
  · have owner (x r) (judged : s.counted.clearUnitFault u = (x, r)) :
        takes (.unitFaultClear src req index) x r :=
      action_takes s src req 2 index _ x r h rfl (judged ▸ act_unitFault _ _ u hu)
    refine ⟨fun sound => owner _ _ (clearUnitFault_sound _ u sound), fun faulted => ⟨fun held => ?_,
      fun held moving => ?_, fun held valid rest => ⟨_, owner _ _ (clearUnitFault_clears _ u faulted held valid rest),
        changeTracker_enters _ u _ none .noCause, frame_changeTracker _ u _ none .noCause⟩⟩⟩
    · exact owner _ _ (clearUnitFault_held _ u faulted held)
    · exact owner _ _ (clearUnitFault_moving _ u faulted held moving)
  · exact action_takes s src req 3 index _ _ _ h rfl (act_converter_none _ _ (none_of 2 out))
  · have owner (x r) (fitted : (s.conv c).state ≠ .absent) (judged : s.counted.clearConverter c = (x, r)) :
        takes (.converterClear src req index) x r :=
      action_takes s src req 3 index _ x r h rfl (judged ▸ act_converter _ _ c hc fitted)
    refine ⟨fun absent => action_takes s src req 3 index _ _ _ h rfl (act_converter_absent _ _ c hc absent),
      fun fitted sound => owner _ _ fitted (clearConverter_sound _ c sound), fun faulted => ?_⟩
    have fitted : (s.conv c).state ≠ .absent := by simp [faulted]
    exact ⟨fun busy => owner _ _ fitted (clearConverter_busy _ c faulted busy), fun valid idle =>
      ⟨_, owner _ _ fitted (clearConverter_clears _ c faulted valid idle), changeConv_enters _ c _ _,
        frame_changeConv _ c _ _⟩⟩
  · exact action_takes s src req 4 0 _ _ _ h rfl (clearEstop_free s.counted free ▸ act_estopClear _ _)
  · exact ⟨fun level => action_takes s src req 4 0 _ _ _ h rfl
        (clearEstop_held s.counted latched level ▸ act_estopClear _ _),
      fun level => action_takes s src req 4 0 _ _ _ h rfl
        (clearEstop_clears s.counted latched level ▸ act_estopClear _ _)⟩
  · exact action_takes s src req 5 index _ _ _ h rfl (act_authority_bad _ _ bad)
  · intro x
    obtain ⟨stays, leaves, enters⟩ := afterAuthority_moves x s.authority limits
    refine ⟨_, action_takes s src req 5 index _ _ _ h rfl (act_authority _ _ bit), stays, leaves, enters, ?_⟩
    rw [authority_remote_iff]
    have inputs : x.inputs = s.inputs := rfl
    rw [inputs]
    by_cases zero : index = 0 <;> simp [x, zero]

end Sys2Proof.Machine
end

section
/-! PROOFS. The plan diff for one machine, action by action of its table (R29, R58 to R60; log entry 9). -/
namespace Sys2Proof.Machine

/-! ## The tests of the diff (R58, R59) -/

theorem leftOut_iff (s : State) (n : Snapshot) (u : UnitId) : s.leftOut n u = true ↔
    (s.tracker u).state.diffClass ≠ (n.tracker u).state.diffClass
      ∨ (s.tracker u).admitted ≠ (n.tracker u).admitted ∨ (s.unit u).isSome ≠ (n.unit u).isSome := by
  simp [State.leftOut, or_assoc]

theorem movable_iff (n : Snapshot) (u : UnitId) : n.movable u = true ↔ n.isFree u = true
    ∨ (∃ rec, n.unit u = some rec) ∧ (n.tracker u).admitted = false ∧ n.pinnedClass u = none := by
  simp [Snapshot.movable, Option.isSome_iff_exists, and_assoc]

theorem mayChange_iff (n : Snapshot) (u : UnitId) :
    (n.unit u).any (fun r => r.changeover == .permitted) = true
      ↔ ∃ rec, n.unit u = some rec ∧ rec.changeover = .permitted := by
  cases n.unit u <;> simp

/-! ## The actions of the diff (R59, R60) -/

theorem diffWithdraw_eq (s : State) (u : UnitId) : s.diffWithdraw u
    = (s.setQueue (s.queue.filter (fun e => e.unit != u)), if (∃ e ∈ s.queue, e.unit = u) then .withdraw else .none) := by
  unfold State.diffWithdraw State.entryOf
  split
  · rename_i e found
    rw [if_pos ⟨e, List.mem_of_find?_eq_some found, by simpa using List.find?_some found⟩]
    rfl
  · rename_i missing
    have absent : ∀ e ∈ s.queue, e.unit ≠ u := by simpa using missing
    have whole : s.queue.filter (fun e => e.unit != u) = s.queue := by simpa using absent
    rw [if_neg (by simpa using absent), whole, State.setQueue_self]

theorem placeEntry_waiting (s : State) (u : UnitId) (k : EntryKind) (e : Entry)
    (h : s.queue.find? (fun e => e.unit == u) = some e) : s.placeEntry u k = if e.kind = k then (s, .keep)
      else (s.setQueue (s.queue.filter (fun e => e.unit != u) ++ [⟨u, k, s.now, .new, none⟩]), k.action) := by
  simp only [State.placeEntry, State.entryOf, h]
  rfl

theorem placeEntry_new (s : State) (u : UnitId) (k : EntryKind)
    (h : s.queue.find? (fun e => e.unit == u) = none) : s.placeEntry u k
      = (s.setQueue (s.queue.filter (fun e => e.unit != u) ++ [⟨u, k, s.now, .new, none⟩]), k.action) := by
  have whole : s.queue.filter (fun e => e.unit != u) = s.queue := by simpa using h
  simp only [State.placeEntry, State.entryOf, h, whole]

/-! ## The columns of the table (R59) -/

theorem steady_iff (st : TState) : st.steady = true ↔ st = .gen ∨ st = .pump := by
  cases st <;> simp [TState.steady]

/-- Settles O45: what is not left out is one of the three columns of `diffAct`, by the tracker's state. -/
theorem planDiffFollowsItsTable : Obligations.PlanDiffFollowsItsTable := by
  intro s n desired u r st out others untouched withdrawn stopped entered mayChange free leaving
  have left (h : out) : r = (s, .leftOut) := if_pos ((leftOut_iff s n u).2 h)
  have acts (h : ¬ out) {k : Cls} (d : desired u = k) : r = s.diffAct n u k :=
    d ▸ if_neg (mt (leftOut_iff s n u).1 h)
  have withdraws (h : r = s.diffWithdraw u) : withdrawn := h.trans (diffWithdraw_eq s u)
  have enters (k : EntryKind) (h : r = s.placeEntry u k) : entered k := by
    simp only [entered]
    split
    · exact h.trans (placeEntry_waiting s u k _ ‹_›)
    · exact h.trans (placeEntry_new s u k ‹_›)
  have moves : (st.steady && n.movable u) = true ↔ (st = .gen ∨ st = .pump) ∧ (free ∨ leaving) :=
    (Bool.and_eq_true_iff).trans (and_congr (steady_iff st) (movable_iff n u))
  have freeIn (k : TState) : (decide (st = k) && n.isFree u) = true ↔ st = k ∧ free := by
    rw [Bool.and_eq_true, decide_eq_true_iff]
  have running (i : st = .gen ∨ st = .pump) : ¬ st = .idle := by
    rintro e
    simp [e] at i
  have outside (k l : TState) (i : st = k) (h : k.diffClass ≠ l.diffClass) : ¬ st.diffClass = l.diffClass := i ▸ h
  have unlike (k : TState) {c : Cls} (i : st.diffClass = some c) (h : k.diffClass ≠ some c) : ¬ st = k :=
    fun e => h (e ▸ i)
  refine ⟨left, fun h d i => ?_, fun h d i => ⟨fun m => ?_, fun f l => ?_⟩, fun h d i => ?_, fun h d i => ?_,
    fun h d i => ⟨fun f m => ?_, fun f m => ?_, fun f => ?_⟩, fun h d i => ?_, fun h d i c => ?_, fun h d i => ?_,
    fun h d i => ⟨fun f => ?_, fun f => ?_⟩, fun h d i => ?_, fun h d i c => ?_⟩
  all_goals have act := acts h d
  · exact withdraws (act.trans (if_pos i))
  · exact act.trans ((if_neg (running i)).trans (if_pos (moves.2 ⟨i, m⟩)))
  · exact act.trans ((if_neg (running i)).trans (if_neg fun k => (moves.1 k).2.elim f l))
  · simp only [List.mem_cons, List.not_mem_nil, or_false, not_or] at i
    exact act.trans ((if_neg i.1).trans (if_neg fun k => (moves.1 k).1.elim i.2.1 i.2.2))
  · exact enters _ (act.trans (if_pos i))
  · exact enters _ (act.trans ((if_neg (running (.inr i))).trans ((if_pos ((freeIn .pump).2 ⟨i, f⟩)).trans
      (if_pos ((mayChange_iff n u).2 m)))))
  · exact act.trans ((if_neg (running (.inr i))).trans ((if_pos ((freeIn .pump).2 ⟨i, f⟩)).trans
      (if_neg (mt (mayChange_iff n u).1 m))))
  · exact act.trans ((if_neg (running (.inr i))).trans ((if_neg (mt (freeIn .pump).1 (mt And.right f))).trans
      (if_neg (outside .pump .gen i (by decide)))))
  · have steady : ¬ (st = .pump ∧ free) := fun k => unlike .pump i (by decide) k.1
    exact withdraws (act.trans ((if_neg (unlike .idle i (by decide))).trans
      ((if_neg (mt (freeIn .pump).1 steady)).trans (if_pos i))))
  · simp only [List.mem_cons, List.not_mem_nil, or_false, not_or] at i
    exact act.trans ((if_neg i.1).trans ((if_neg (mt (freeIn .pump).1 (mt And.left i.2))).trans (if_neg c)))
  · exact enters _ (act.trans (if_pos i))
  · exact act.trans ((if_neg (running (.inl i))).trans (if_pos ((freeIn .gen).2 ⟨i, f⟩)))
  · exact act.trans ((if_neg (running (.inl i))).trans ((if_neg (mt (freeIn .gen).1 (mt And.right f))).trans
      (if_neg (outside .gen .pump i (by decide)))))
  · have steady : ¬ (st = .gen ∧ free) := fun k => unlike .gen i (by decide) k.1
    exact withdraws (act.trans ((if_neg (unlike .idle i (by decide))).trans
      ((if_neg (mt (freeIn .gen).1 steady)).trans (if_pos i))))
  · simp only [List.mem_cons, List.not_mem_nil, or_false, not_or] at i
    exact act.trans ((if_neg i.1).trans ((if_neg (mt (freeIn .gen).1 (mt And.left i.2))).trans (if_neg c)))

end Sys2Proof.Machine
end

section
/-! PROOFS. The emergency stop: the orders it hands to the unit line, the machines and converters it stops, and what
its latching leaves (R21, R22, R25, R134; log entries 12 and 23). -/
namespace Sys2Proof.Machine

/-! ## What an order finds on the unit line (R133, R134) -/

/-- What placing orders reads of the part is the same in two states. -/
structure LineSees (s t : State) : Prop where
  line : t.line = s.line
  now : t.now = s.now
  settings : t.settings = s.settings
  port : t.port = s.port

theorem LineSees.trans {s t u : State} (h : LineSees s t) (k : LineSees t u) : LineSees s u :=
  ⟨k.1.trans h.1, k.2.trans h.2, k.3.trans h.3, k.4.trans h.4⟩

theorem LineSees.of_unchanged {l : List Block} {s t : State} (h : Unchanged l s t)
    (hl : ∀ b ∈ [Block.line, .errors, .settings, .port], b ∉ l := by decide) : LineSees s t :=
  ⟨h .line (hl _ (by decide)), congrArg ErrorMonitor.now (h .errors (hl _ (by decide))),
    h .settings (hl _ (by decide)), h .port (hl _ (by decide))⟩

theorem choosePoll_congr {s t : State} (h : LineSees s t) : t.choosePoll.line = s.choosePoll.line := by
  have poll (a : Nat) : t.pollFrame a = s.pollFrame a := by simp only [State.pollFrame, h.settings]
  unfold State.choosePoll State.startPoll
  rw [h.line, h.port]
  split
  · exact h.line
  · split
    · rfl
    · split
      · exact h.line
      · simp only [State.setLine_line, poll]

theorem lineChoose_congr {s t : State} (h : LineSees s t) : t.lineChoose.line = s.lineChoose.line := by
  have order (o : Order) : t.orderFrame o = s.orderFrame o := by simp only [State.orderFrame, h.settings]
  unfold State.lineChoose
  rw [h.line]
  split
  · exact h.line
  · split
    · simp only [State.setLine_line, order]
    · split
      · rfl
      · exact choosePoll_congr h

theorem lineSees_setLine {s t : State} (h : LineSees s t) (l : UnitLine) : LineSees (s.setLine l) (t.setLine l) :=
  ⟨rfl, h.now, h.settings, h.port⟩

/-- An order finds and leaves the same on two lines that are the same. -/
theorem placeOrder_congr {s t : State} (h : LineSees s t) (o : Order) :
    LineSees (s.placeOrder o) (t.placeOrder o) := by
  have insert : t.placeOrder o
      = (t.setLine { s.line with orders := insertOrder s.now o s.line.orders }).lineChoose := by
    rw [State.placeOrder, h.line, h.now]
  have frameS := frame_placeOrder s o
  have frameT := frame_placeOrder t o
  refine ⟨?_, ?_, ?_, ?_⟩
  · rw [insert]
    exact lineChoose_congr (lineSees_setLine h _)
  · exact (congrArg ErrorMonitor.now (frameT .errors (by decide))).trans
      (h.now.trans (congrArg ErrorMonitor.now (frameS .errors (by decide))).symm)
  · exact (frameT .settings (by decide)).trans (h.settings.trans (frameS .settings (by decide)).symm)
  · exact (frameT .port (by decide)).trans (h.port.trans (frameS .port (by decide)).symm)

theorem placeOrder_only (s : State) (o : Order) : ∃ l, s.placeOrder o = s.setLine l := by
  obtain ⟨l, e⟩ := lineChoose_only (s.setLine { s.line with orders := insertOrder s.now o s.line.orders })
  exact ⟨l, e⟩

/-- Orders placed one after the other (R134). -/
def State.placeOrders (s : State) (orders : List Order) : State := orders.foldl State.placeOrder s

theorem placeOrders_congr (orders : List Order) : ∀ {s t : State}, LineSees s t →
    LineSees (s.placeOrders orders) (t.placeOrders orders) := by
  induction orders with
  | nil => exact id
  | cons o rest ih => exact fun h => ih (placeOrder_congr h o)

theorem placeOrders_append (s : State) (l m : List Order) :
    s.placeOrders (l ++ m) = (s.placeOrders l).placeOrders m := List.foldl_append

/-- A line that is not free queues the orders, each in its station's place (R134). -/
theorem placeOrders_busy (orders : List Order) : ∀ s : State, s.line.activity ≠ .idle →
    (s.placeOrders orders).line = { s.line with
      orders := orders.foldl (fun q o => insertOrder s.now o q) s.line.orders } := by
  induction orders with
  | nil => exact fun s _ => rfl
  | cons o rest ih =>
    intro s busy
    have queued : s.placeOrder o = s.setLine { s.line with orders := insertOrder s.now o s.line.orders } :=
      if_pos busy
    have rest := ih (s.placeOrder o) (by rw [queued]; exact busy)
    rw [queued] at rest
    rw [State.placeOrders, List.foldl_cons, queued]
    exact rest

/-- Orders for stations that none waits for join the tail in turn (R134). -/
theorem insertOrder_new (now : Time) (o : Order) (q : List QueuedOrder)
    (h : o.station ∉ q.map (fun x => x.order.station)) : insertOrder now o q = q ++ [⟨o, now⟩] := by
  induction q with
  | nil => rfl
  | cons x rest ih =>
    simp only [List.map_cons, List.mem_cons, not_or] at h
    rw [insertOrder, if_neg (Ne.symm h.1), ih h.2, List.cons_append]

theorem insertOrders_new (now : Time) (orders : List Order) : ∀ q : List QueuedOrder,
    (q.map (fun x => x.order.station) ++ orders.map Order.station).Nodup →
      orders.foldl (fun q o => insertOrder now o q) q = q ++ orders.map (fun o => ⟨o, now⟩) := by
  induction orders with
  | nil => simp
  | cons o rest ih =>
    intro q h
    have fresh : o.station ∉ q.map (fun x => x.order.station) := by
      intro waits
      exact (List.nodup_append.1 h).2.2 _ waits _ (List.mem_cons_self ..) rfl
    rw [List.foldl_cons, insertOrder_new now o q fresh, ih _ (by simpa using h)]
    simp

/-- A free line with nothing queued sends the first order at once, and the others wait in turn (R133). -/
theorem placeOrders_free (s : State) (o : Order) (rest : List Order) (idle : s.line.activity = .idle)
    (empty : s.line.orders = []) (once : ((o :: rest).map Order.station).Nodup) :
    (s.placeOrders (o :: rest)).line = { s.line with
      activity := .sending (.order o) (s.orderFrame o), orders := rest.map (fun r => ⟨r, s.now⟩) } := by
  have sent : s.placeOrder o = s.setLine { s.line with
      orders := [], activity := .sending (.order o) (s.orderFrame o) } := by
    simp only [State.placeOrder, State.lineChoose, empty, insertOrder, State.setLine_line, idle, ne_eq,
      not_true_eq_false, if_false]
    rfl
  have waiting := placeOrders_busy rest (s.placeOrder o) (by rw [sent]; nofun)
  rw [sent] at waiting
  rw [State.placeOrders, List.foldl_cons, sent]
  refine waiting.trans ?_
  have queued := insertOrders_new s.now rest [] (List.nodup_cons.1 once).2
  exact congrArg (fun q => ({ s.line with
    activity := .sending (.order o) (s.orderFrame o), orders := q } : UnitLine)) queued

/-! ## Triggers outside REMOTE (R45) -/

theorem fullTrigger_away (s : State) (src : TriggerSource) (h : s.isRemote = false) : s.fullTrigger src = s := by
  simp [State.fullTrigger, h]

theorem changeTracker_away (s : State) (u : UnitId) (st : TState) (g : Option ConvId) (cause : FaultCause)
    (h : s.isRemote = false) : s.changeTracker u st g cause = s.moveTracker u st g cause := by
  have away : (s.moveTracker u st g cause).isRemote = false := h
  unfold State.changeTracker
  simp only [fullTrigger_away _ _ away, ite_self]

/-! ## The machines and converters that ESTOP stops (R22) -/

/-- A tracker as ESTOP leaves it (R22). -/
def State.estopTracker (s : State) (u : UnitId) : Tracker :=
  if (s.tracker u).state.stoppedByEstop then (s.tracker u).enter s.now (s.unit u) .stopping none .noCause
  else s.tracker u

theorem stoppedByEstop_iff (st : TState) : st.stoppedByEstop = true
    ↔ st ∈ [TState.gen, .pump, .genStart, .pumpSpin, .pumpPrime, .changeover] := by
  cases st <;> simp [TState.stoppedByEstop]

/-- A converter record as ESTOP leaves it (R22). -/
def State.estopConv (s : State) (c : ConvId) : ConvRecord :=
  match (s.conv c).state.spinning with
  | some u => { s.conv c with
      state := .detaching u, entryTime := s.now, cause := .noCause
      deadline := some (s.now + s.settings.attachTimeout) }
  | none => s.conv c

/-- The orders of ESTOP for some machines and some converters: STOPs, then DETACHs (R22). -/
def State.haltOrders (s : State) (us : List UnitId) (cs : List ConvId) : List Order :=
  (us.filter (fun u => (s.tracker u).state.stoppedByEstop)).map (fun u => .unit u .stop)
    ++ (cs.filter (fun c => (s.conv c).state.spinning.isSome)).map (fun c => .conv c .detach)

/-- ESTOP has stopped some machines and detached some converters: their orders are placed, their records are as
ESTOP leaves them, and those of the others stand. -/
structure State.Halts (s t : State) (us : List UnitId) (cs : List ConvId) : Prop where
  line : LineSees (s.placeOrders (s.haltOrders us cs)) t
  trackers : ∀ v, t.tracker v = if v ∈ us then s.estopTracker v else s.tracker v
  convs : ∀ c, t.conv c = if c ∈ cs then s.estopConv c else s.conv c
  unchanged : Unchanged [.line, .trackers, .queue, .convs] s t

theorem halts_none (s : State) : s.Halts s [] [] :=
  ⟨⟨rfl, rfl, rfl, rfl⟩, fun _ => rfl, fun _ => rfl, Unchanged.refl _ s⟩

theorem isRemote_congr {s t : State} (target : t.target = s.target) (inputs : t.inputs = s.inputs) :
    t.isRemote = s.isRemote := by
  simp only [State.isRemote, State.authority, target, inputs]

theorem State.Halts.away {s t : State} {us : List UnitId} {cs : List ConvId} (h : s.Halts t us cs)
    (away : s.isRemote = false) : t.isRemote = false :=
  (isRemote_congr (h.unchanged .target (by decide)) (h.unchanged .inputs (by decide))).trans away

/-- Further machines or converters, none of them again, find their own records as they were. -/
theorem State.Halts.append {s t x : State} {us us' : List UnitId} {cs cs' : List ConvId} (h : s.Halts t us cs)
    (k : t.Halts x us' cs') (apartU : ∀ v ∈ us', v ∉ us) (apartC : ∀ c ∈ cs', c ∉ cs)
    (stopsFirst : cs = [] ∨ us' = []) : s.Halts x (us ++ us') (cs ++ cs') := by
  have now : t.now = s.now := congrArg ErrorMonitor.now (h.unchanged .errors (by decide))
  have table : t.table = s.table := h.unchanged .table (by decide)
  have settings : t.settings = s.settings := h.unchanged .settings (by decide)
  have tracker : ∀ v ∈ us', t.tracker v = s.tracker v := fun v hv => (h.trackers v).trans (if_neg (apartU v hv))
  have conv : ∀ c ∈ cs', t.conv c = s.conv c := fun c hc => (h.convs c).trans (if_neg (apartC c hc))
  have stops : us'.filter (fun u => (t.tracker u).state.stoppedByEstop)
      = us'.filter (fun u => (s.tracker u).state.stoppedByEstop) :=
    List.filter_congr fun v hv => by rw [tracker v hv]
  have detaches : cs'.filter (fun c => (t.conv c).state.spinning.isSome)
      = cs'.filter (fun c => (s.conv c).state.spinning.isSome) :=
    List.filter_congr fun c hc => by rw [conv c hc]
  have orders : s.haltOrders (us ++ us') (cs ++ cs') = s.haltOrders us cs ++ t.haltOrders us' cs' := by
    unfold State.haltOrders
    rw [stops, detaches]
    rcases stopsFirst with rfl | rfl <;> simp
  refine ⟨?_, fun v => ?_, fun c => ?_, h.unchanged.trans k.unchanged⟩
  · rw [orders, placeOrders_append]
    exact (placeOrders_congr _ h.line).trans k.line
  · rw [k.trackers v]
    by_cases hv : v ∈ us'
    · simp only [hv, List.mem_append, or_true, if_true, State.estopTracker, State.unit, tracker v hv, now, table]
    · simp only [hv, List.mem_append, or_false, if_false, h.trackers v]
  · rw [k.convs c]
    by_cases hc : c ∈ cs'
    · simp only [hc, List.mem_append, or_true, if_true, State.estopConv, conv c hc, now, settings]
    · simp only [hc, List.mem_append, or_false, if_false, h.convs c]

theorem estopStop_halts (s : State) (u : UnitId) (away : s.isRemote = false) :
    s.Halts (if (s.tracker u).state.stoppedByEstop then s.stopUnit u else s) [u] [] := by
  by_cases stopped : (s.tracker u).state.stoppedByEstop = true
  · obtain ⟨line, order⟩ := placeOrder_only s (.unit u .stop)
    have orders : s.haltOrders [u] [] = [.unit u .stop] := by simp [State.haltOrders, stopped]
    have moved : s.stopUnit u = (s.setLine line).moveTracker u .stopping none .noCause := by
      rw [State.stopUnit, State.queueStop, order]
      exact changeTracker_away _ u _ _ _ away
    rw [if_pos stopped, moved]
    refine ⟨?_, fun v => ?_, fun c => rfl,
      ((frame_setLine s line).seq (frame_moveTracker _ u _ _ _)).mono (by decide)⟩
    · rw [orders, State.placeOrders, List.foldl_cons, order]
      exact .of_unchanged (frame_moveTracker (s.setLine line) u .stopping none .noCause)
    · by_cases hv : v = u
      · subst hv
        rw [if_pos (List.mem_singleton_self v), State.estopTracker, if_pos stopped]
        exact upd_get_self _ _ _
      · rw [if_neg (by simpa using hv)]
        exact upd_get_ne _ _ (Ne.symm hv)
  · have orders : s.haltOrders [u] [] = [] := by simp [State.haltOrders, stopped]
    rw [if_neg stopped]
    refine ⟨?_, fun v => ?_, fun _ => rfl, Unchanged.refl _ s⟩
    · rw [orders]
      exact ⟨rfl, rfl, rfl, rfl⟩
    · split
      · rename_i hv
        rw [List.mem_singleton.1 hv, State.estopTracker, if_neg stopped]
      · rfl

theorem detachConv_halts (s : State) (c : ConvId) : s.Halts (s.detachConv c) [] [c] := by
  cases spun : (s.conv c).state.spinning with
  | none =>
    have orders : s.haltOrders [] [c] = [] := by simp [State.haltOrders, spun]
    have kept : s.detachConv c = s := by simp only [State.detachConv, spun]
    rw [kept]
    refine ⟨?_, fun _ => rfl, fun d => ?_, Unchanged.refl _ s⟩
    · rw [orders]
      exact ⟨rfl, rfl, rfl, rfl⟩
    · split
      · rename_i hd
        rw [List.mem_singleton.1 hd]
        simp only [State.estopConv, spun]
      · rfl
  | some u =>
    obtain ⟨line, order⟩ := placeOrder_only s (.conv c .detach)
    have orders : s.haltOrders [] [c] = [.conv c .detach] := by simp [State.haltOrders, spun]
    have moved : s.detachConv c = (s.setLine line).changeConv c (.detaching u) := by
      simp only [State.detachConv, spun, order]
    rw [moved]
    refine ⟨?_, fun _ => rfl, fun d => ?_, ((frame_setLine s line).seq (frame_changeConv _ _ _ _)).mono (by decide)⟩
    · rw [orders, State.placeOrders, List.foldl_cons, order]
      exact .of_unchanged (frame_changeConv (s.setLine line) c (.detaching u) .noCause)
    · by_cases hd : d = c
      · subst hd
        rw [if_pos (List.mem_singleton_self d)]
        simp only [State.estopConv, spun]
        exact (changeConv_conv (s.setLine line) d (.detaching u) .noCause).trans rfl
      · rw [if_neg (by simpa using hd)]
        exact changeConv_ne _ _ _ hd

theorem estopStops_halts (l : List UnitId) : ∀ s : State, l.Nodup → s.isRemote = false →
    s.Halts (l.foldl (fun acc u => if (acc.tracker u).state.stoppedByEstop then acc.stopUnit u else acc) s) l [] := by
  induction l with
  | nil => exact fun s _ _ => halts_none s
  | cons u rest ih =>
    intro s once away
    obtain ⟨fresh, once⟩ := List.nodup_cons.1 once
    have first := estopStop_halts s u away
    exact first.append (ih _ once (first.away away)) (fun v hv e => fresh (List.mem_singleton.1 e ▸ hv)) nofun (.inl rfl)

theorem estopDetaches_halts (l : List ConvId) : ∀ s : State, l.Nodup →
    s.Halts (l.foldl (fun acc c => acc.detachConv c) s) [] l := by
  induction l with
  | nil => exact fun s _ => halts_none s
  | cons c rest ih =>
    intro s once
    obtain ⟨fresh, once⟩ := List.nodup_cons.1 once
    exact (detachConv_halts s c).append (ih _ once) nofun (fun d hd e => fresh (List.mem_singleton.1 e ▸ hd)) (.inr rfl)

/-- What the actions of R22 leave while ESTOP is latched. -/
structure State.EstopActs (s t : State) : Prop where
  line : t.line = (s.placeOrders s.estopOrders).line
  trackers : ∀ u, t.tracker u = s.estopTracker u
  convs : ∀ c, t.conv c = s.estopConv c
  queue : t.queue = []
  target : t.target = { s.target with tf := 0, te := 0, rampNext := none }
  unchanged : Unchanged [.line, .trackers, .queue, .convs, .target] s t

/-- The actions of R22: the stops, the detaches, then the start queue and the targets. -/
theorem estopActions_halts (s : State) (away : s.isRemote = false) : ∃ w, s.Halts w allUnits allConvs
    ∧ s.estopActions = (w.setQueue []).setTarget { w.target with tf := 0, te := 0, rampNext := none } := by
  have stops := estopStops_halts allUnits s (by decide) away
  have halts := stops.append (estopDetaches_halts allConvs _ (by decide)) nofun nofun (.inr rfl)
  unfold State.estopActions
  simp only [List.nil_append, List.append_nil] at halts ⊢
  generalize List.foldl _ _ allConvs = w at halts ⊢
  exact ⟨w, halts, rfl⟩

theorem estopActions_acts (s : State) (away : s.isRemote = false) : s.EstopActs s.estopActions := by
  obtain ⟨w, halts, shape⟩ := estopActions_halts s away
  have target : w.target = s.target := halts.unchanged .target (by decide)
  rw [shape]
  refine ⟨halts.line.line, fun u => ?_, fun c => ?_, rfl, ?_,
    ((halts.unchanged.seq (frame_setQueue _ _)).seq (frame_setTarget _ _)).mono (by decide)⟩
  · exact (halts.trackers u).trans (if_pos (by fin_cases u <;> decide))
  · exact (halts.convs c).trans (if_pos (by fin_cases c <;> decide))
  · rw [State.setTarget_target, target]

/-! ## The latching of ESTOP (R21, R22, R25; log entry 12) -/

/-- The line when leaving REMOTE removes the orders that start or load machines (R25). -/
def UnitLine.pruned (l : UnitLine) (remote : Bool) : UnitLine :=
  { l with orders := l.orders.filter (fun q => !remote || !q.order.removedOnLeavingRemote) }

/-- Orders that none of R25's are stand. -/
theorem UnitLine.pruned_stay (l : UnitLine) (remote : Bool)
    (h : ∀ q ∈ l.orders, q.order.removedOnLeavingRemote = false) : l.pruned remote = l := by
  have stay : l.orders.filter (fun q => !remote || !q.order.removedOnLeavingRemote) = l.orders :=
    List.filter_eq_self.2 fun q hq => by simp [h q hq]
  rw [UnitLine.pruned, stay]

/-- What the latching of ESTOP leaves before it is recorded. -/
structure State.Latches (s t : State) : Prop where
  target : t.target = { s.target with
    estopLatch := true, tf := 0, te := 0, rampNext := none
    holdFlag := if s.isRemote then false else s.target.holdFlag }
  queue : t.queue = []
  trackers : ∀ u, t.tracker u = { s.estopTracker u with
    lastSent := if s.isRemote then none else (s.estopTracker u).lastSent }
  convs : ∀ c, t.conv c = s.estopConv c
  stays : s.isRemote = false → t.solver = s.solver
  leaves : s.isRemote = true → t.solver = { s.solver.dropped with resolveNext := none }
  line : t.line = (s.placeOrders s.estopOrders).line.pruned s.isRemote
  unchanged : Unchanged [.target, .queue, .trackers, .convs, .solver, .line] s t

/-- The latch itself and the actions of R22, at the authority that `s` has. -/
theorem estopLatched_acts (s : State) : let w := s.setTarget { s.target with estopLatch := true }
    w.EstopActs w.estopActions ∧ (w.placeOrders w.estopOrders).line = (s.placeOrders s.estopOrders).line := by
  intro w
  have away : w.isRemote = false := authority_of_not_remote w (by simp [authority_of_latch w rfl])
  exact ⟨estopActions_acts w away,
    (placeOrders_congr s.estopOrders (LineSees.of_unchanged (frame_setTarget s { s.target with estopLatch := true }))).line⟩

theorem estopLatched_latches (s : State) : let w := s.setTarget { s.target with estopLatch := true }
    s.Latches (if s.authority = .remote then w.estopActions.leaveRemote else w.estopActions) := by
  intro w
  obtain ⟨acts, line⟩ := estopLatched_acts s
  have acted : Unchanged [.target, .queue, .trackers, .convs, .solver, .line] s w.estopActions :=
    ((frame_setTarget s _).seq acts.unchanged).mono (by decide)
  have solver : w.estopActions.solver = s.solver := acts.unchanged .solver (by decide)
  by_cases remote : s.isRemote = true
  · have left := leaveRemote_leaves w.estopActions
    rw [if_pos ((isRemote_eq s).1 remote)]
    refine ⟨?_, left.queue, fun u => ?_, fun c => ?_, fun away => ?_, fun _ => ?_, ?_,
      (acted.seq left.unchanged).mono (by decide)⟩
    · rw [left.target, acts.target, if_pos remote]
      rfl
    · rw [left.trackers u, acts.trackers u, if_pos remote]
      rfl
    · have convs : w.estopActions.leaveRemote.convs = w.estopActions.convs := left.unchanged .convs (by decide)
      exact (congrArg (fun x => x.get c) convs).trans (acts.convs c)
    · simp [remote] at away
    · rw [left.solver, solver]
      rfl
    · rw [leaveRemote_line, acts.line, line, remote]
      rfl
  · rw [if_neg (mt (isRemote_eq s).2 remote)]
    rw [Bool.not_eq_true] at remote
    refine ⟨?_, acts.queue, fun u => ?_, acts.convs, fun _ => solver, fun r => ?_, ?_, acted⟩
    · rw [acts.target, remote]
      rfl
    · rw [acts.trackers u, remote]
      rfl
    · simp [remote] at r
    · rw [acts.line, line, remote]
      simp [UnitLine.pruned]

theorem estopOrders_stations (s : State) : (s.estopOrders.map Order.station).Nodup := by
  have orders : s.estopOrders.Sublist (allUnits.map (fun u => Order.unit u .stop)
      ++ allConvs.map (fun c => Order.conv c .detach)) :=
    (List.filter_sublist.map _).append (List.filter_sublist.map _)
  exact List.Nodup.sublist (orders.map Order.station) (by decide)

theorem estopOrders_stay (s : State) (o : Order) (h : o ∈ s.estopOrders) : o.removedOnLeavingRemote = false := by
  rcases List.mem_append.1 h with stop | detach
  · obtain ⟨u, -, rfl⟩ := List.mem_map.1 stop
    rfl
  · obtain ⟨c, -, rfl⟩ := List.mem_map.1 detach
    rfl

/-- The edge of the emergency-stop line: level and flag, the latching, the record of ESTOP (R21, R182). -/
theorem exec_estopEdge (s : State) (hp : s.processing ≠ .deviceReset) (place : s.ownHasPlace) : ∃ x t,
    exec .emergencyStopEdge s = .next t
      ∧ (s.setInputs { s.inputs with estopLevel := true, estopFlag := true }).Latches x
      ∧ x.Records t (detection .estop 0) ∧ Unchanged [.errors, .port] x t := by
  let y := s.setInputs { s.inputs with estopLevel := true, estopFlag := true }
  have run : exec .emergencyStopEdge s = .next y.latchEstop :=
    congrArg Host.Outcome.next (whenRunning_of (s.setEstopLevel true) _ hp)
  have latched := estopLatched_latches y
  have room : (if y.authority = .remote then (y.setTarget { y.target with estopLatch := true }).estopActions.leaveRemote
      else (y.setTarget { y.target with estopLatch := true }).estopActions).ownHasPlace := by
    rw [State.ownHasPlace, show _ = y.port from latched.unchanged .port (by decide)]
    exact place
  exact ⟨_, _, run, latched, detect_records _ _ room⟩

/-- Settles O25: what the latching leaves, and the record of ESTOP on top of it. -/
theorem emergencyStopStopsThePlant : Obligations.EmergencyStopStopsThePlant := by
  intro s hp place
  obtain ⟨x, t, run, latched, records, told⟩ := exec_estopEdge s hp place
  have errors : x.errors = s.errors := latched.unchanged .errors (by decide)
  have port : x.port = s.port := latched.unchanged .port (by decide)
  have settings : x.settings = s.settings := latched.unchanged .settings (by decide)
  have inputs : x.inputs = { s.inputs with estopLevel := true, estopFlag := true } :=
    latched.unchanged .inputs (by decide)
  have trackers : t.trackers = x.trackers := told .trackers (by decide)
  have convs : t.convs = x.convs := told .convs (by decide)
  have solver : t.solver = x.solver := told .solver (by decide)
  have placed := placeOrders_congr s.estopOrders
    (LineSees.of_unchanged (frame_setInputs s { s.inputs with estopLevel := true, estopFlag := true }))
  have pruned : t.line = (s.placeOrders s.estopOrders).line.pruned s.isRemote := by
    rw [← placed.line]
    exact (told .line (by decide)).trans latched.line
  refine ⟨t, run, (told .inputs (by decide)).trans inputs, (told .target (by decide)).trans latched.target,
    (told .queue (by decide)).trans latched.queue, records.congr errors.symm port.symm settings.symm rfl rfl,
    fun u => ?tracker, fun c => ?conv, fun away => solver.trans (latched.stays away),
    fun remote => solver.trans (latched.leaves remote), fun busy => ?busy, fun idle empty => ?free,
    (((frame_setInputs s _).seq latched.unchanged).seq told).mono (by decide)⟩
  case tracker =>
    have moved : s.estopTracker u = if (s.tracker u).state ∈ [TState.gen, .pump, .genStart, .pumpSpin, .pumpPrime,
        .changeover] then (s.tracker u).enter s.now (s.unit u) .stopping none .noCause else s.tracker u :=
      if_congr (stoppedByEstop_iff _) rfl rfl
    rw [State.tracker, trackers]
    refine (latched.trackers u).trans ?_
    rw [← moved]
    rfl
  case conv =>
    rw [State.conv, convs]
    refine (latched.convs c).trans ?_
    simp only [State.estopConv, State.conv, State.setInputs_convs]
    cases (s.convs.get c).state <;> rfl
  case busy =>
    rw [pruned, placeOrders_busy _ _ busy]
    refine congrArg (fun keep => ({ s.line with
      orders := (s.estopOrders.foldl (fun q o => insertOrder s.now o q) s.line.orders).filter keep } : UnitLine))
        (funext fun q => ?_)
    rcases q with ⟨⟨u, k⟩ | ⟨c, k⟩, queuedAt⟩ <;> cases k <;> rfl
  case free =>
    have stations := estopOrders_stations s
    have stay := estopOrders_stay s
    rw [pruned]
    cases orders : s.estopOrders with
    | nil => exact UnitLine.pruned_stay s.line _ (by simp [empty])
    | cons o rest =>
      rw [orders] at stations stay
      rw [placeOrders_free s o rest idle empty stations]
      refine UnitLine.pruned_stay _ _ fun q hq => ?_
      obtain ⟨r, hr, rfl⟩ := List.mem_map.1 hq
      exact stay r (List.mem_cons_of_mem o hr)

end Sys2Proof.Machine
end

section
/-! PROOFS. Device reset: its reply, what its processing holds and takes, and the lines found asserted at its end
(R97, R152, R165, R179, R181, R182; log entry 7). -/
namespace Sys2Proof.Machine

/-! ## The reply (R165, R170) -/

/-- The dispatch port with the reply to DEVICE_RESET ahead of the frames that wait (R165). -/
def DispatchPort.ahead (p : DispatchPort) (reply : OwnFrame) (waiting : List OwnFrame) : DispatchPort :=
  match p.tx with
  | some _ => { p with own := reply :: waiting }
  | none => { p with own := waiting, tx := some reply }

theorem txChoose_ahead (s : State) (reply : OwnFrame) (waiting : List OwnFrame) :
    (s.setPort { s.port with own := reply :: waiting }).txChoose = s.setPort (s.port.ahead reply waiting) := by
  unfold State.txChoose DispatchPort.ahead
  cases h : s.port.tx <;> simp [h]

theorem offerResetReply_eq (s : State) (f : Frame) :
    (s.ownHasPlace → s.offerResetReply f = s.setPort (s.port.ahead ⟨f, true⟩ s.port.own))
      ∧ (¬ s.ownHasPlace → s.offerResetReply f
          = (s.setPort (s.port.ahead ⟨f, true⟩ s.port.own.dropLast)).detectAt .uOwnOverflow 0) := by
  have full : s.ownFull = true ↔ ¬ s.ownHasPlace := by simp [State.ownFull, State.ownHasPlace]
  unfold State.offerResetReply
  refine ⟨fun place => ?_, fun crowded => ?_⟩
  · rw [if_neg (by rw [full]; exact not_not.2 place), txChoose_ahead]
  · rw [if_pos (full.2 crowded), txChoose_ahead]
    rfl

theorem exec_deviceReset (s : State) (src : Byte) (req : BitVec 16) (h : s.takesRequests) :
    exec (.deviceReset src req) s = .next ((s.counted.offerResetReply
      (s.replyFrame src.toNat req.toNat (.ok []))).setResetAwaiting true) := by
  have run : exec (.deviceReset src req) s = .next (s.whenRunning (fun x => x.request src req 4 12 0 [])) := rfl
  have running : s.processing ≠ .deviceReset := by
    rw [h.1]
    nofun
  rw [run, whenRunning_of s _ running, request_performed s src req 4 12 0 [] h (by decide)]
  rfl

/-! ## The processing (R152, R179) -/

/-- The part at its device reset values, with given inputs, processing and line activity; a reception in progress
is being discarded, and the queue of commands stands (R152, R179). -/
def State.freshWith (s : State) (i : Inputs) (p : Processing) (a : LineActivity) : State := { State.reset with
  inputs := i, processing := p, pending := s.pending
  line := { State.reset.line with activity := a, rx := if s.line.rx = none then none else some .uncounted } }

theorem cutReception_eq (rx : Option RxPlace) : cutReception rx = if rx = none then none else some .uncounted := by
  cases rx <;> rfl

theorem deviceResetValues_eq (s : State) : s.deviceResetValues = s.freshWith s.inputs.cleared .none .idle := by
  unfold State.deviceResetValues State.freshWith
  rw [cutReception_eq]
  rfl

theorem beginDeviceReset_eq (s : State) :
    s.beginDeviceReset = s.freshWith s.inputs.cleared .deviceReset .resetting := by
  unfold State.beginDeviceReset
  rw [deviceResetValues_eq]
  rfl

theorem whenRunning_reset (s : State) (f : State → State) (h : s.processing = .deviceReset) :
    s.whenRunning f = s := by
  simp only [State.whenRunning, h]

theorem lineReception_reset (s : State) (r : Option Frame) (h : s.processing = .deviceReset) :
    s.lineReception r = s.setLine { s.line with rx := none } := by
  simp only [State.lineReception, h]
  rfl

/-- A reception command is the end of a reception on the unit line (R137). -/
theorem exec_reception (s : State) (c : Instr) (r : Option Frame) (h : c.reception = some r) :
    exec c s = .next (s.lineReception r) := by
  unfold Instr.reception at h
  split at h
  · cases h
    rfl
  · cases h
    rfl
  · obtain ⟨f, frame, rfl⟩ := Option.map_eq_some_iff.1 h
    unfold Instr.lineFrame at frame
    split at frame <;> cases frame <;> rfl

/-- The commands that change a level of a line, the pin or the reception, or end the processing (R179, R181). -/
abbrev takenInReset : List Instr := [.emergencyStopEdge, .emergencyStopRelease, .localRemoteAssert,
  .localRemoteDeassert, .receptionStart, .receptionLimit, .resetPin, .resetPinRelease, .deviceResetEnd]

/-- Nothing else is taken while a device reset is in processing (R152, R179). -/
theorem exec_reset_ignores (s : State) (c : Instr) (h : s.processing = .deviceReset) (quiet : c.reception = none)
    (lines : ∀ u, c ≠ .tripLineAssert u ∧ c ≠ .tripLineDeassert u) (taken : c ∉ takenInReset) :
    exec c s = .next s := by
  have onU (f : Frame) : (.next (s.receiveOn .u f) : Host.Outcome State Fault Refusal) = .next s :=
    congrArg _ (whenRunning_reset s (fun x => x.receiveFrameU f) h)
  have ignored (f : State → State) : (.next (s.whenRunning f) : Host.Outcome State Fault Refusal) = .next s :=
    congrArg _ (whenRunning_reset s f h)
  cases c with
  | frameClassify p | target p | hold p | admission p | head p =>
    cases p with
    | u => exact (exec_dispatchFrame _ _ s rfl).trans (onU _)
    | d => cases quiet
  | unitReport | converterReport | nilReply | replyWindowReception | strayReception => cases quiet
  | tripLineAssert u => exact absurd rfl (lines u).1
  | tripLineDeassert u => exact absurd rfl (lines u).2
  | engineResetEnd => exact congrArg _ (if_neg (by rw [h]; nofun))
  | emergencyStopEdge | emergencyStopRelease | localRemoteAssert | localRemoteDeassert | receptionStart
  | receptionLimit | resetPin | resetPinRelease | deviceResetEnd => exact absurd (by decide) taken
  | uFrameCheck | replyWindowTimeout | unitLineTxEnd | pollTxEnd | dispatchTxEnd | rampStep | orderStale | headStale
  | resolveTimerExpiry | statusTimerExpiry | transitionDeadline | pinEnd | converterDeadline | fullSolveComplete
  | loadSolveComplete | lineResetEnd | deviceTimeTick | read | writeSettings | writeUnit | writeGroup | writeMerit
  | writeClass | writeSeverity | writeNotice | clearCounters | clearCapture | clearFlags | clearLine | solveNow
  | unitFaultClear | converterClear | estopClear | authoritySet | scanStart | scanStop | scanStep | scanConfig
  | lineReset | engineReset | deviceReset => exact ignored _

/-- A reception that ends during the processing is discarded, and nothing is counted (R152). -/
theorem exec_reset_discards (s : State) (c : Instr) (h : s.processing = .deviceReset)
    (ends : c.reception ≠ none ∨ c = .receptionLimit) :
    exec c s = .next (s.setLine { s.line with rx := none }) := by
  rcases ends with ends | rfl
  · obtain ⟨r, reception⟩ := Option.ne_none_iff_exists'.1 ends
    rw [exec_reception s c r reception, lineReception_reset s r h]
  · have run : exec .receptionLimit s = .next s.cutAtLimit := rfl
    rw [run]
    unfold State.cutAtLimit
    split
    · rw [lineReception_reset s none h]
    · rename_i rx
      rw [← rx]
      rfl

/-- A line that changes during the processing changes its level alone (R181). -/
theorem exec_reset_levels (s : State) (asserted : Bool) (h : s.processing = .deviceReset) :
    (∀ u, exec (if asserted then .tripLineAssert u else .tripLineDeassert u) s
        = .next (s.setInputs { s.inputs with tripLevel := upd s.inputs.tripLevel u asserted }))
      ∧ exec (if asserted then .emergencyStopEdge else .emergencyStopRelease) s
        = .next (s.setInputs { s.inputs with estopLevel := asserted })
      ∧ exec (if asserted then .localRemoteAssert else .localRemoteDeassert) s
        = .next (s.setInputs { s.inputs with localLevel := asserted }) := by
  have running (x : Inputs) (f : State → State) : (s.setInputs x).whenRunning f = s.setInputs x :=
    whenRunning_reset _ f h
  have line (x : Bool) : s.onLocalLine x = s.setLocalLevel x := by simp only [State.onLocalLine, h]
  cases asserted with
  | false => exact ⟨fun u => rfl, rfl, congrArg Host.Outcome.next (line false)⟩
  | true =>
    exact ⟨fun u => congrArg Host.Outcome.next (running _ _), congrArg Host.Outcome.next (running _ _),
      congrArg Host.Outcome.next (line true)⟩

/-! ## The lines found asserted at the end (R97, R181, R182) -/

theorem vector_ext {α : Type} {n : Nat} {v w : Vector α n} (h : ∀ i : Fin n, v.get i = w.get i) : v = w :=
  Vector.ext fun i hi => h ⟨i, hi⟩

/-- A detection moves the monitor and the dispatch port, and not the time. -/
theorem detectAt_frame (s : State) (k : ErrorKind) (n : Nat) :
    Unchanged [.errors, .port] s (s.detectAt k n) ∧ (s.detectAt k n).now = s.now := by
  obtain ⟨e, own, tx, told, now⟩ := detectAt_only s k n
  rw [told]
  exact ⟨(frame_setErrors s e).seq (frame_setPort _ _), now⟩

theorem latchEstop_latches (s : State) : ∃ x, s.Latches x ∧ s.latchEstop = x.detectAt .estop 0 :=
  ⟨_, estopLatched_latches s, rfl⟩

/-- The emergency-stop line found asserted while no machine and no converter moves (R21, R22). -/
theorem assertEstop_atRest (s : State) (away : s.isRemote = false) (unqueued : s.queue = [])
    (trackers : ∀ u, s.estopTracker u = s.tracker u) (convs : ∀ c, s.estopConv c = s.conv c) :
    s.assertEstop.target = { s.target with estopLatch := true, tf := 0, te := 0, rampNext := none }
      ∧ s.assertEstop.inputs = { s.inputs with estopFlag := true } ∧ s.assertEstop.now = s.now
      ∧ Unchanged [.target, .inputs, .errors, .port, .line] s s.assertEstop := by
  let y := s.setInputs { s.inputs with estopFlag := true }
  obtain ⟨x, latched, shape⟩ := latchEstop_latches y
  obtain ⟨told, now⟩ := detectAt_frame x .estop 0
  rw [← shape] at told now
  have stays : y.isRemote = false := away
  have target := latched.target
  rw [stays] at target
  have trackers : x.trackers = s.trackers := vector_ext fun u => by
    refine (latched.trackers u).trans ?_
    rw [stays]
    exact trackers u
  have convs : x.convs = s.convs := vector_ext fun c => (latched.convs c).trans (convs c)
  have solver : x.solver = s.solver := latched.stays stays
  have queue : x.queue = s.queue := latched.queue.trans unqueued.symm
  refine ⟨(told .target (by decide)).trans target,
    (told .inputs (by decide)).trans (latched.unchanged .inputs (by decide)),
    now.trans (congrArg ErrorMonitor.now (latched.unchanged .errors (by decide))), fun b hb => ?_⟩
  have all := (((frame_setInputs s { s.inputs with estopFlag := true }).seq latched.unchanged).seq told)
  cases b with
  | trackers => exact (told .trackers (by decide)).trans trackers
  | convs => exact (told .convs (by decide)).trans convs
  | solver => exact (told .solver (by decide)).trans solver
  | queue => exact (told .queue (by decide)).trans queue
  | target | inputs | errors | port | line => exact absurd (by decide) hb
  | settings | table | classes | processing | resetAwaiting | pending => exact all _ (by decide)

/-- The trip lines of some machines are looked at: those that hold their machines set their flags and fault them. -/
structure State.Trips (s t : State) (us : List UnitId) : Prop where
  flags : ∀ v, t.inputs.tripFlag.get v = if v ∈ us ∧ s.held v then true else s.inputs.tripFlag.get v
  inputs : t.inputs = { s.inputs with tripFlag := t.inputs.tripFlag }
  trackers : ∀ v, t.tracker v = if v ∈ us ∧ s.held v
    then (s.tracker v).enter s.now (s.unit v) .faulted none .tripLine else s.tracker v
  now : t.now = s.now
  unchanged : Unchanged [.inputs, .trackers, .errors, .line, .port] s t

theorem trips_none (s : State) (us : List UnitId) (free : ∀ v ∈ us, s.held v = false) : s.Trips s us := by
  have none (v : UnitId) : ¬ (v ∈ us ∧ s.held v) := fun ⟨hv, held⟩ => by simp [free v hv] at held
  exact ⟨fun v => (if_neg (none v)).symm, rfl, fun v => (if_neg (none v)).symm, rfl, Unchanged.refl _ s⟩

theorem State.Trips.held {s t : State} {us : List UnitId} (h : s.Trips t us) (v : UnitId) : t.held v = s.held v := by
  have settings : t.settings = s.settings := h.unchanged .settings (by decide)
  rw [State.held, h.inputs, settings]
  rfl

theorem State.Trips.away {s t : State} {us : List UnitId} (h : s.Trips t us) (away : s.isRemote = false) :
    t.isRemote = false := by
  have target : t.target = s.target := h.unchanged .target (by decide)
  rw [State.isRemote, State.authority, h.inputs, target]
  exact away

/-- A further trip line finds its machine as it was. -/
theorem State.Trips.cons {s t x : State} {u : UnitId} {us : List UnitId} (h : s.Trips t [u]) (k : t.Trips x us)
    (once : u ∉ us) : s.Trips x (u :: us) := by
  have table : t.table = s.table := h.unchanged .table (by decide)
  have first (v : UnitId) (hv : v ∈ us) : ¬ (v ∈ [u] ∧ s.held v) := fun both =>
    once (List.mem_singleton.1 both.1 ▸ hv)
  have split {α : Sort _} (v : UnitId) (a b c d : α) (hc : v ∈ us → c = a)
      (hd : d = if v ∈ [u] ∧ s.held v then a else b) :
      (if v ∈ us ∧ t.held v then c else d) = if v ∈ u :: us ∧ s.held v then a else b := by
    rw [hd, h.held v]
    by_cases hv : v ∈ us
    · rw [if_neg (first v hv), hc hv]
      simp [hv]
    · simp [hv]
  refine ⟨fun v => ?_, ?_, fun v => ?_, k.now.trans h.now, h.unchanged.trans k.unchanged⟩
  · rw [k.flags v]
    exact split v _ _ _ _ (fun _ => rfl) (h.flags v)
  · rw [k.inputs, h.inputs]
  · rw [k.trackers v]
    refine split v _ _ _ _ (fun hv => ?_) (h.trackers v)
    rw [(h.trackers v).trans (if_neg (first v hv)), h.now, State.unit, table]
    rfl

/-- A trip line found asserted at a machine whose state is not known (R96, R97). -/
theorem assertTrip_atRest (s : State) (u : UnitId) (away : s.isRemote = false) (unqueued : s.queue = [])
    (unknown : (s.tracker u).state = .unknown) : ∃ l, s.assertTrip u
      = (((s.setInputs { s.inputs with tripFlag := upd s.inputs.tripFlag u true }).setTracker u
          ((s.tracker u).enter s.now (s.unit u) .faulted none .tripLine)).setLine l).detectAt .unitTrip
            (unitNumber u) := by
  let y := s.setInputs { s.inputs with tripFlag := upd s.inputs.tripFlag u true }
  have moved : y.changeTracker u .faulted none .tripLine
      = y.setTracker u ((s.tracker u).enter s.now (s.unit u) .faulted none .tripLine) := by
    rw [changeTracker_away y u _ _ _ away, State.moveTracker]
    have queue : y.queue = [] := unqueued
    rw [queue]
    exact (congrArg (State.setQueue _) unqueued.symm).trans rfl
  obtain ⟨l, order⟩ := placeOrder_only
    (y.setTracker u ((s.tracker u).enter s.now (s.unit u) .faulted none .tripLine))
    (.unit u .stop)
  have faulted : s.assertTrip u = y.faultUnit u .tripLine .unitTrip :=
    if_neg (by rw [show y.tracker u = s.tracker u from rfl, unknown]; nofun)
  refine ⟨l, ?_⟩
  rw [faulted, State.faultUnit, moved, State.queueStop, order]
  have granted (w : State) : w.detachGranted (y.tracker u) = w :=
    if_neg (by rw [show y.tracker u = s.tracker u from rfl, unknown]; nofun)
  rw [granted]

theorem assertTrip_trips (s : State) (u : UnitId) (away : s.isRemote = false) (unqueued : s.queue = [])
    (unknown : (s.tracker u).state = .unknown) : s.Trips (if s.held u then s.assertTrip u else s) [u] := by
  by_cases held : s.held u = true
  · obtain ⟨l, shape⟩ := assertTrip_atRest s u away unqueued unknown
    let w := ((s.setInputs { s.inputs with tripFlag := upd s.inputs.tripFlag u true }).setTracker u
      ((s.tracker u).enter s.now (s.unit u) .faulted none .tripLine)).setLine l
    obtain ⟨told, now⟩ := detectAt_frame w .unitTrip (unitNumber u)
    have inputs := told .inputs (by decide)
    have trackers := told .trackers (by decide)
    have others (v : UnitId) (hv : v ≠ u) : ¬ (v ∈ [u] ∧ s.held v) := fun both =>
      hv (List.mem_singleton.1 both.1)
    rw [if_pos held, shape]
    refine ⟨fun v => ?_, ?_, fun v => ?_, now, ?_⟩
    · refine (congrArg (fun i : Inputs => i.tripFlag.get v) inputs).trans ?_
      by_cases hv : v = u
      · rw [hv, if_pos ⟨List.mem_singleton_self u, held⟩]
        exact upd_get_self _ _ _
      · rw [if_neg (others v hv)]
        exact upd_get_ne _ _ (Ne.symm hv)
    · exact inputs.trans (congrArg (fun i : Inputs => { s.inputs with tripFlag := i.tripFlag }) inputs).symm
    · refine (congrArg (fun r : Vector Tracker 8 => r.get v) trackers).trans ?_
      by_cases hv : v = u
      · rw [hv, if_pos ⟨List.mem_singleton_self u, held⟩]
        exact upd_get_self _ _ _
      · rw [if_neg (others v hv)]
        exact upd_get_ne _ _ (Ne.symm hv)
    · exact (((frame_setInputs s _).seq (frame_setTracker _ u _)).seq ((frame_setLine _ l).seq told)).mono (by decide)
  · rw [if_neg held]
    exact trips_none s [u] fun v hv => by
      rw [List.mem_singleton.1 hv]
      simpa using held

theorem assertTrips_trips (l : List UnitId) : ∀ s : State, l.Nodup → s.isRemote = false → s.queue = [] →
    (∀ u ∈ l, (s.tracker u).state = .unknown) →
    s.Trips (l.foldl (fun acc u => if acc.held u then acc.assertTrip u else acc) s) l := by
  induction l with
  | nil => exact fun s _ _ _ _ => trips_none s [] nofun
  | cons u rest ih =>
    intro s once away unqueued unknown
    obtain ⟨fresh, once⟩ := List.nodup_cons.1 once
    have first := assertTrip_trips s u away unqueued (unknown u List.mem_cons_self)
    have queue : _ = s.queue := first.unchanged .queue (by decide)
    refine first.cons (ih _ once (first.away away) (queue.trans unqueued) fun v hv => ?_) fresh
    have apart : ¬ (v ∈ [u] ∧ s.held v) := fun both => fresh (List.mem_singleton.1 both.1 ▸ hv)
    rw [(first.trackers v).trans (if_neg apart)]
    exact unknown v (List.mem_cons_of_mem u hv)

theorem assertTripsHeld_trips (s : State) (away : s.isRemote = false) (unqueued : s.queue = [])
    (unknown : ∀ u, (s.tracker u).state = .unknown) : s.Trips s.assertTripsHeld allUnits :=
  assertTrips_trips allUnits s (by decide) away unqueued fun u _ => unknown u

/-! ## The end of the processing (R179) -/

/-- The reset values while a line's assertions are taken up: the levels stand, and no flag is set. -/
def State.cleared (s : State) : State := s.freshWith s.inputs.cleared .none .idle

theorem cleared_away (s : State) : s.cleared.isRemote = false := by
  have authority : s.cleared.authority = .localControl := by
    unfold State.authority
    exact (if_neg (by nofun)).trans (ite_self _)
  rw [State.isRemote, authority]
  rfl

theorem cleared_tracker (s : State) (u : UnitId) : s.cleared.tracker u = .reset := reset_tracker u

theorem cleared_held (s : State) (u : UnitId) : s.cleared.held u = s.inputs.tripLevel.get u := by
  have senses : State.reset.settings.senses.get u = .level := by fin_cases u <;> rfl
  have held : s.cleared.held u = (State.reset.settings.senses.get u == .level && s.inputs.tripLevel.get u) := rfl
  rw [held, senses]
  rfl

/-- What taking up the emergency-stop line leaves of the reset values (R21, R181). -/
theorem cleared_assertEstopHeld (s : State) : let x := s.cleared.assertEstopHeld
    x.target = { TargetRamp.reset with estopLatch := s.inputs.estopLevel }
      ∧ x.inputs = { s.inputs.cleared with estopFlag := s.inputs.estopLevel } ∧ x.now = 0
      ∧ Unchanged [.target, .inputs, .errors, .port, .line] s.cleared x := by
  have convs (c : ConvId) : s.cleared.estopConv c = s.cleared.conv c := by
    have spinless : (s.cleared.conv c).state.spinning = none := by
      rw [show s.cleared.conv c = State.reset.conv c from rfl, reset_converter]
      split <;> rfl
    simp only [State.estopConv, spinless]
  have trackers (u : UnitId) : s.cleared.estopTracker u = s.cleared.tracker u :=
    if_neg (by rw [cleared_tracker]; nofun)
  obtain ⟨target, inputs, now, told⟩ := assertEstop_atRest s.cleared (cleared_away s) rfl trackers convs
  cases level : s.inputs.estopLevel with
  | true =>
    have taken : s.cleared.assertEstopHeld = s.cleared.assertEstop := if_pos level
    rw [taken]
    exact ⟨target, inputs, now, told⟩
  | false =>
    have still : s.cleared.assertEstopHeld = s.cleared :=
      if_neg (by rw [show s.cleared.inputs.estopLevel = _ from level]; nofun)
    rw [still]
    exact ⟨rfl, rfl, rfl, Unchanged.refl _ _⟩

theorem endDeviceReset_eq (s : State) :
    s.endDeviceReset = s.cleared.assertEstopHeld.assertTripsHeld.flagLocalHeld.lineChoose := by
  unfold State.endDeviceReset
  rw [deviceResetValues_eq]
  rfl

/-- With no line asserted the scan polls station 1 (R179). -/
theorem endDeviceReset_quiet (s : State) (trips : ∀ u, s.inputs.tripLevel.get u = false)
    (estop : s.inputs.estopLevel = false) (localLine : s.inputs.localLevel = false) :
    s.endDeviceReset = s.freshWith s.inputs.cleared .none (.sending (.poll 1 true) (mkFrame 1 240 .poll [])) := by
  have still : s.cleared.assertEstopHeld = s.cleared :=
    if_neg (by rw [show s.cleared.inputs.estopLevel = _ from estop]; nofun)
  have free (u : UnitId) : s.cleared.held u = false := (cleared_held s u).trans (trips u)
  have untripped (l : List UnitId) :
      l.foldl (fun acc u => if acc.held u then acc.assertTrip u else acc) s.cleared = s.cleared := by
    induction l with
    | nil => rfl
    | cons u rest ih => rw [List.foldl_cons, if_neg (by simp [free u]), ih]
  have here : s.cleared.flagLocalHeld = s.cleared :=
    if_neg (by rw [show s.cleared.inputs.localLevel = _ from localLine]; nofun)
  rw [endDeviceReset_eq, still, State.assertTripsHeld, untripped, here]
  rfl

/-- What the end of the processing leaves: the latch, the flags and the tracker records by the levels of the lines,
and the rest at its reset values (R21, R97, R181, R182). -/
structure State.TakesUpLines (s t : State) : Prop where
  target : t.target = { TargetRamp.reset with estopLatch := s.inputs.estopLevel }
  inputs : t.inputs = { s.inputs with
    tripFlag := s.inputs.tripLevel, estopFlag := s.inputs.estopLevel, localFlag := s.inputs.localLevel }
  trackers : ∀ u, t.tracker u = if s.inputs.tripLevel.get u = true then
      { Tracker.reset with state := .faulted, faultCause := .tripLine, faultState := some .unknown }
    else Tracker.reset
  unchanged : Unchanged [.target, .inputs, .trackers, .errors, .line, .port] s.cleared t

/-- The local/remote line found asserted sets its flag (R182). -/
theorem flagLocalHeld_eq (s : State) (clear : s.inputs.localFlag = false) :
    s.flagLocalHeld = s.setInputs { s.inputs with localFlag := s.inputs.localLevel } := by
  unfold State.flagLocalHeld
  cases level : s.inputs.localLevel with
  | true => rfl
  | false =>
    refine (if_neg (by nofun)).trans ?_
    rw [← clear]
    rfl

theorem endDeviceReset_takesUpLines (s : State) : s.TakesUpLines s.endDeviceReset := by
  obtain ⟨target, inputs, now, toldStop⟩ := cleared_assertEstopHeld s
  rw [endDeviceReset_eq]
  generalize s.cleared.assertEstopHeld = x at target inputs now toldStop ⊢
  have away : x.isRemote = false := by
    have setting : x.authority ≠ .remote := by
      rw [State.authority, target]
      split
      · nofun
      · split <;> nofun
    exact beq_eq_false_iff_ne.2 setting
  have trackers : x.trackers = s.cleared.trackers := toldStop .trackers (by decide)
  have rest (u : UnitId) : x.tracker u = .reset :=
    (congrArg (fun r : Vector Tracker 8 => r.get u) trackers).trans (cleared_tracker s u)
  have settings : x.settings = s.cleared.settings := toldStop .settings (by decide)
  have held (u : UnitId) : x.held u = s.inputs.tripLevel.get u := by
    rw [← cleared_held s u, State.held, State.held, settings, inputs]
    rfl
  have trips := assertTripsHeld_trips x away (toldStop .queue (by decide)) fun u => by rw [rest u]; rfl
  generalize x.assertTripsHeld = y at trips ⊢
  have every (u : UnitId) : u ∈ allUnits := by fin_cases u <;> decide
  have flags : y.inputs.tripFlag = s.inputs.tripLevel := vector_ext fun u => by
    rw [trips.flags u, held u, inputs]
    cases level : s.inputs.tripLevel.get u with
    | true => exact if_pos ⟨every u, rfl⟩
    | false => exact (if_neg (by nofun)).trans (by fin_cases u <;> rfl)
  have yInputs : y.inputs = { s.inputs.cleared with
      tripFlag := s.inputs.tripLevel, estopFlag := s.inputs.estopLevel } := by
    rw [trips.inputs, flags, inputs]
  have flagged := flagLocalHeld_eq y (by rw [yInputs]; rfl)
  rw [flagged]
  have chosen := frame_lineChoose (y.setInputs { y.inputs with localFlag := y.inputs.localLevel })
  refine ⟨?_, ?_, fun u => ?_,
    (((toldStop.seq trips.unchanged).seq (frame_setInputs y _)).seq chosen).mono (by decide)⟩
  · exact (chosen .target (by decide)).trans ((trips.unchanged .target (by decide)).trans target)
  · refine (chosen .inputs (by decide)).trans ?_
    rw [State.setInputs_inputs, yInputs]
    rfl
  · have stood := chosen .trackers (by decide)
    refine (congrArg (fun r : Vector Tracker 8 => r.get u) stood).trans ((trips.trackers u).trans ?_)
    rw [held u, rest u, now]
    exact if_congr (and_iff_right (every u)) rfl rfl

/-! ## The commands that begin and end the processing -/

theorem exec_dispatchTxEnd_reset (s : State) (x : OwnFrame) (h : s.processing ≠ .deviceReset)
    (sent : s.port.tx = some x) (reset : x.resetReply = true) :
    exec .dispatchTxEnd s = .next (s.freshWith s.inputs.cleared .deviceReset .resetting) := by
  have run : exec .dispatchTxEnd s = .next (s.whenRunning State.dispatchSent) := rfl
  rw [run, whenRunning_of s _ h, State.dispatchSent]
  simp only [sent, reset, if_true, beginDeviceReset_eq]

theorem exec_deviceResetEnd (s : State) (h : s.processing = .deviceReset) (released : s.inputs.resetPinLow = false) :
    exec .deviceResetEnd s = .next s.endDeviceReset :=
  congrArg Host.Outcome.next (if_pos ⟨h, released⟩)

/-- Settles O60: the reply, the commands during the processing, its beginnings, and its end. -/
theorem deviceResetBeginsAndEnds : Obligations.DeviceResetBeginsAndEnds := by
  intro s src req
  dsimp only
  refine ⟨fun takes => ⟨_, exec_deviceReset s src req takes, rfl, fun place => ?place, fun crowded => ?crowded⟩,
    fun h => ⟨fun c quiet lines taken => exec_reset_ignores s c h quiet lines taken,
      fun c ends => exec_reset_discards s c h ends, fun asserted => exec_reset_levels s asserted h⟩,
    fun h x sent reset => ⟨_, exec_dispatchTxEnd_reset s x h sent reset, rfl⟩,
    ⟨_, rfl, ?pin⟩,
    fun h released => ⟨_, exec_deviceResetEnd s h released, fun trips estop localLine => ?quiet, ?ended⟩⟩
  case place =>
    rw [(offerResetReply_eq s.counted _).1 place]
    refine ⟨?_, ((frame_setPort s _).seq (frame_setResetAwaiting _ _)).mono (by decide)⟩
    rfl
  case crowded =>
    rw [(offerResetReply_eq s.counted _).2 crowded]
    rfl
  case pin => exact beginDeviceReset_eq (s.setInputs { s.inputs with resetPinLow := true })
  case quiet => exact endDeviceReset_quiet s trips estop localLine
  case ended =>
    obtain ⟨target, inputs, trackers, unchanged⟩ := endDeviceReset_takesUpLines s
    exact ⟨target, inputs, trackers, unchanged⟩

end Sys2Proof.Machine
end

section
/-! PROOFS. The counters of every step; what a trigger of a solve and what a completion choose, by the solver's state
(R38, R39, R45 to R49, R63). -/
namespace Sys2Proof.Machine

/-- Settles O7: every command keeps the counters within their ranges. -/
theorem stepKeepsCountersBounded : Obligations.StepKeepsCountersBounded :=
  fun _ _ bounded run => (safe_step run).counters bounded

/-! ## The starts of solves (R39, R42, R43, R48) -/

theorem snapshot_holds (s : State) : s.snapshot.Holds s where
  time := rfl
  targets := ⟨rfl, rfl⟩
  head := rfl
  tables := ⟨rfl, rfl, rfl, rfl⟩
  trackers := mapUnits_get _ _
  queue := rfl

/-- A full solve starts at a state with whatever solver block it has there. -/
theorem startFull_starts (s : State) (v : Solver) : Solver.StartedFull s v (s.setSolver v).startFull.solver :=
  ⟨⟨s.snapshot, snapshot_holds s, rfl⟩, rfl⟩

theorem startLoad_starts (s : State) : ∃ n : Snapshot, n.Holds s
    ∧ s.startLoad.solver = { s.solver with phase := .load n, loadPending := false } :=
  ⟨s.snapshot, snapshot_holds s, rfl⟩

/-! ## Full triggers (R45 to R47, R63) -/

theorem enabled_eq_false_iff (s : State) (src : TriggerSource) : s.enabled src = false ↔
    src = .availability ∧ s.settings.enAvailability = false ∨ src = .pin ∧ s.settings.enPin = false
      ∨ src = .head ∧ s.settings.enHead = false ∨ src = .period ∧ s.settings.enPeriod = false := by
  cases src <;> simp [State.enabled]

theorem fullTrigger_discarded (s : State) (src : TriggerSource)
    (h : s.isRemote = false ∨ s.enabled src = false) : s.fullTrigger src = s := by
  rcases h with h | h <;> simp [State.fullTrigger, h]

theorem fullTrigger_taken (s : State) (src : TriggerSource) (remote : s.isRemote = true)
    (enabled : s.enabled src = true) : s.fullTrigger src = s.takeFullTrigger := by
  simp [State.fullTrigger, remote, enabled]

theorem takeFullTrigger_resetting (s : State) (h : s.processing = .engineReset) :
    s.takeFullTrigger = s.setSolver { s.solver with fullPending := true } := by
  simp only [State.takeFullTrigger, h]

/-- Outside engine reset processing a full trigger starts a solve, or is latched, or restarts the solve in
flight (R46, R47). -/
theorem takeFullTrigger_running (s : State) (h : s.processing ≠ .engineReset) : s.takeFullTrigger =
    if s.solver.phase = .idle then s.startFull
    else if s.settings.policy = .latch then s.setSolver { s.solver with fullPending := true }
    else s.discardSolve.startFull := by
  cases processing : s.processing
  case engineReset => contradiction
  all_goals
    cases phase : s.solver.phase <;> cases policy : s.settings.policy <;>
      simp [State.takeFullTrigger, processing, phase, policy]

theorem discardSolve_full (s : State) (n : Snapshot) (h : s.solver.phase = .full n) : s.discardSolve
    = s.setSolver { s.solver with phase := .idle, discarded := satInc s.solver.discarded } := by
  simp only [State.discardSolve, h]

theorem discardSolve_load (s : State) (n : Snapshot) (h : s.solver.phase = .load n) : s.discardSolve
    = s.setSolver { s.solver with phase := .idle } := by
  simp only [State.discardSolve, h]

/-! ## What follows (R49) -/

theorem actOnLatches_full (s : State) (h : s.solver.fullPending = true) :
    s.actOnLatches = (s.setSolver { s.solver with fullPending := false, loadPending := false }).startFull := if_pos h

theorem actOnLatches_load (s : State) (full : s.solver.fullPending = false) (h : s.solver.loadPending = true) :
    s.actOnLatches = s.startLoad := by
  simp [State.actOnLatches, full, h]

theorem actOnLatches_none (s : State) (full : s.solver.fullPending = false) (load : s.solver.loadPending = false) :
    s.actOnLatches = s.setSolver { s.solver with phase := .idle } := by
  simp [State.actOnLatches, full, load]

theorem chooseNextSolve_full (s : State) (absorbed : Bool) (h : s.solver.fullPending = true) :
    s.chooseNextSolve absorbed = s.actOnLatches := by
  simp [State.chooseNextSolve, h]

theorem chooseNextSolve_load (s : State) (absorbed : Bool) (full : s.solver.fullPending = false)
    (h : s.solver.loadPending = true ∨ absorbed = true) : s.chooseNextSolve absorbed = s.startLoad := by
  cases load : s.solver.loadPending
  case true => simp [State.chooseNextSolve, load, actOnLatches_load s full load]
  case false => simp [State.chooseNextSolve, full, load, h.resolve_left (by simp [load])]

theorem chooseNextSolve_none (s : State) (full : s.solver.fullPending = false)
    (load : s.solver.loadPending = false) :
    s.chooseNextSolve false = s.setSolver { s.solver with phase := .idle } := by
  simp [State.chooseNextSolve, full, load]

/-- Settles O41: a trigger taken is judged by the processing, the solver's phase and the policy; a completion by the
latches. -/
theorem fullTriggersAndCompletionsChooseTheSolve : Obligations.FullTriggersAndCompletionsChooseTheSolve := by
  refine ⟨fun s src => ⟨frame_fullTrigger s src, fun gone => fullTrigger_discarded s src ?_, ?reset, ?running⟩,
    fun s absorbed => ⟨frame_chooseNextSolve s absorbed, fun full => ?_, fun full load => ?_,
      fun full load absorbed => ?_⟩⟩
  · exact gone.imp_right (enabled_eq_false_iff s src).2
  case reset =>
    intro remote on resetting
    rw [← enabled_eq_false_iff, Bool.not_eq_false] at on
    rw [fullTrigger_taken s src remote on, takeFullTrigger_resetting s resetting]
    rfl
  case running =>
    intro remote on running
    rw [← enabled_eq_false_iff, Bool.not_eq_false] at on
    rw [fullTrigger_taken s src remote on, takeFullTrigger_running s running]
    refine ⟨fun idle => ?_, fun busy latch => ?_, fun n full restart => ?_, fun n load restart => ?_⟩
    · rw [if_pos idle]
      exact startFull_starts s s.solver
    · rw [if_neg busy, if_pos latch]
      rfl
    · rw [if_neg (by simp [full]), if_neg (by simp [restart]), discardSolve_full s n full]
      exact startFull_starts s _
    · rw [if_neg (by simp [load]), if_neg (by simp [restart]), discardSolve_load s n load]
      exact startFull_starts s _
  · rw [chooseNextSolve_full s absorbed full, actOnLatches_full s full]
    exact startFull_starts s _
  · rw [chooseNextSolve_load s absorbed full load]
    exact startLoad_starts s
  · subst absorbed
    rw [chooseNextSolve_none s full load]
    rfl

/-! ## Load-only triggers (R45, R48, R63) -/

theorem loadTrigger_resetting (s : State) (remote : s.isRemote = true) (h : s.processing = .engineReset) :
    s.loadTrigger = s.setSolver { s.solver with loadPending := true } := by
  simp only [State.loadTrigger, remote, h, if_true]

/-- Outside engine reset processing a load-only trigger starts a solve, is absorbed or is latched (R48). -/
theorem loadTrigger_running (s : State) (remote : s.isRemote = true) (h : s.processing ≠ .engineReset) :
    (s.solver.phase = .idle → s.loadTrigger = s.startLoad)
      ∧ (∀ n, s.solver.phase = .full n → s.loadTrigger = s)
      ∧ (∀ n, s.solver.phase = .load n →
          s.loadTrigger = s.setSolver { s.solver with loadPending := true }) := by
  refine ⟨fun idle => ?_, fun n full => ?_, fun n load => ?_⟩
  all_goals
    cases processing : s.processing
    case engineReset => contradiction
    all_goals simp only [State.loadTrigger, if_true, *]

/-- Settles O42: outside engine reset processing the solver's phase decides. -/
theorem loadTriggerByPhase : Obligations.LoadTriggerByPhase := by
  intro s
  refine ⟨frame_loadTrigger s, fun away => ?_, fun remote resetting => ?_, fun remote running => ?_, rfl, rfl⟩
  · simp [State.loadTrigger, away]
  · rw [loadTrigger_resetting s remote resetting]
    rfl
  · obtain ⟨starts, absorbed, latched⟩ := loadTrigger_running s remote running
    refine ⟨fun idle => ?_, absorbed, fun n load => ?_⟩
    · rw [starts idle]
      exact startLoad_starts s
    · rw [latched n load]
      rfl

end Sys2Proof.Machine
end

section
/-! PROOFS. LINE_RESET and ENGINE_RESET: the reply, what their processing begins with, and its end (R63, R107, R131,
R151, R178). -/
namespace Sys2Proof.Machine

/-! ## The reply, and what begins behind it (R170, R178) -/

/-- An offered frame, taken or dropped, moves the monitor, but not its time, and on the dispatch port the own queue and
the frame in transmission. -/
theorem offerOwn_only (s : State) (f : Frame) : ∃ e own tx,
    s.offerOwn f = (s.setErrors e).setPort { s.port with own := own, tx := tx } ∧ e.now = s.errors.now := by
  by_cases place : s.ownHasPlace
  · obtain ⟨own, tx, joined⟩ := joinOwn_port s ⟨f, false⟩
    exact ⟨s.errors, own, tx, (offerOwn_joins s f place).trans joined, rfl⟩
  · rw [offerOwn_drops s f place]
    exact detectAt_only s _ _

/-- An action without operands past test 1, with the reset that it may begin, is performed and answered. -/
theorem resetAction_performed (s : State) (src : Byte) (req : BitVec 16) (a : Byte) (h : s.takesRequests) :
    s.whenRunning (fun x => x.request src req 4 a 0 []) = (s.counted.act a.toNat 0 []).1.1.answer src.toNat req.toNat
      (s.counted.act a.toNat 0 []).1.2 (s.counted.act a.toNat 0 []).2 := by
  have running : s.processing ≠ .deviceReset := by
    rw [h.1]
    nofun
  rw [whenRunning_of s _ running, request_performed s src req 4 a 0 [] h (by decide)]
  rfl

theorem exec_lineReset (s : State) (src : Byte) (req : BitVec 16) (h : s.takesRequests) :
    exec (.lineReset src req) s
      = .next (s.counted.answer src.toNat req.toNat (.ok []) .nothing).beginLineReset :=
  congrArg Host.Outcome.next (resetAction_performed s src req 10 h)

theorem exec_engineReset (s : State) (src : Byte) (req : BitVec 16) (h : s.takesRequests) :
    exec (.engineReset src req) s
      = .next (s.counted.answer src.toNat req.toNat (.ok []) .nothing).beginEngineReset :=
  congrArg Host.Outcome.next (resetAction_performed s src req 11 h)

/-! ## Engine reset processing (R107, R131, R178) -/

/-- The target block that an engine reset leaves (R178). -/
def TargetRamp.engineReset (t : TargetRamp) : TargetRamp := { t with tf := t.te, holdFlag := false, rampNext := none }

theorem beginEngineReset_eq (s : State) : s.beginEngineReset
    = (((((s.setQueue []).setSolver { s.solver.dropped with deviation := 0 }).setTarget s.target.engineReset).setTrackers
      (mapUnits (·.engineReset s.now) s.trackers)).setConvs
        #v[(s.conv 0).engineReset s.now, (s.conv 1).engineReset s.now]).setProcessing .engineReset := by
  unfold State.beginEngineReset
  rw [dropSolves_eq]
  rfl

theorem beginEngineReset_tracker (s : State) (u : UnitId) :
    s.beginEngineReset.tracker u = (s.tracker u).engineReset s.now := by
  rw [beginEngineReset_eq]
  exact mapUnits_get _ _ u

theorem beginEngineReset_conv (s : State) (c : ConvId) :
    s.beginEngineReset.conv c = (s.conv c).engineReset s.now := by
  rw [beginEngineReset_eq]
  fin_cases c <;> rfl

theorem frame_beginEngineReset (s : State) :
    Unchanged [.processing, .queue, .target, .solver, .trackers, .convs] s s.beginEngineReset := by
  rw [beginEngineReset_eq]
  exact ((((((frame_setQueue s _).seq (frame_setSolver _ _)).seq (frame_setTarget _ _)).seq
    (frame_setTrackers _ _)).seq (frame_setConvs _ _)).seq (frame_setProcessing _ _)).mono (by decide)

/-- Settles O59: the reply leaves the line and the plant as they were, so each reset begins with what the request
found. -/
theorem lineAndEngineResetBeginAndEnd : Obligations.LineAndEngineResetBeginAndEnd := by
  intro s src req
  let x := s.counted.answer src.toNat req.toNat (.ok []) .nothing
  have answers : s.counted.Answers x src req (.ok []) := answer_answers _ src req _
  obtain ⟨e, own, tx, offered, now⟩ := offerOwn_only s.counted (s.replyFrame src.toNat req.toNat (.ok []))
  replace offered : x = (s.counted.setErrors e).setPort { s.counted.port with own := own, tx := tx } := offered
  refine ⟨fun takes => ⟨x, x.beginLineReset, exec_lineReset s src req takes, answers, frame_setLine _ _, ?line⟩,
    fun running resetting => ⟨_, congrArg Host.Outcome.next ((whenRunning_of s _ running).trans (if_pos resetting)), rfl⟩,
    fun takes => ⟨x, x.beginEngineReset, exec_engineReset s src req takes, answers, rfl, ?queue, ?target, ?solver,
      fun u => ?tracker, fun c fitted => ?conv, fun c absent => ?absent, frame_beginEngineReset x⟩,
    fun resetting => ⟨_, congrArg Host.Outcome.next (if_pos resetting), ?ended⟩⟩
  case line =>
    rw [State.beginLineReset, cutReception_eq, offered]
    rfl
  case queue => rw [beginEngineReset_eq]; rfl
  case target => rw [beginEngineReset_eq, offered]; rfl
  case solver => rw [beginEngineReset_eq, offered]; rfl
  case tracker =>
    have same : x.tracker u = s.tracker u := by rw [offered]; rfl
    have time : x.now = s.now := by rw [offered]; exact now
    rw [beginEngineReset_tracker, same, time]
    rfl
  case conv =>
    have same : x.conv c = s.conv c := by rw [offered]; rfl
    have time : x.now = s.now := by rw [offered]; exact now
    rw [beginEngineReset_conv, same, time, ConvRecord.engineReset, if_neg fitted]
  case absent =>
    have same : x.conv c = s.conv c := by rw [offered]; rfl
    rw [beginEngineReset_conv, same, ConvRecord.engineReset, if_pos absent]
  case ended =>
    have frame := frame_actOnLatches (s.setProcessing .none)
    refine ⟨frame .processing (by decide), fun full => ?_, fun full load => ?_, fun full load => ?_,
      (frame_setProcessing s _).seq frame⟩
    · rw [State.endEngineReset, actOnLatches_full (s.setProcessing .none) full]
      exact startFull_starts s _
    · rw [State.endEngineReset, actOnLatches_load (s.setProcessing .none) full load]
      exact startLoad_starts s
    · rw [State.endEngineReset, actOnLatches_none (s.setProcessing .none) full load]
      rfl

end Sys2Proof.Machine
end

section
/-! PROOFS. The commitment pass: the sorting of the machines, who may join the set S, and a walk as one run over the
machines that it tests (R50 to R53). -/
namespace Sys2Proof.Machine

/-! ## Sorting (R50) -/

theorem unavailable_iff (n : Snapshot) (u : UnitId) : n.unavailable u = true ↔ n.unit u = none
    ∨ (n.tracker u).admitted = false
    ∨ (n.tracker u).state ∈ [TState.notReady, .faulted, .lost, .unknown, .observed] := by
  cases state : (n.tracker u).state <;> simp [Snapshot.unavailable, state]

theorem pinnedClass_gen_iff (n : Snapshot) (u : UnitId) : n.pinnedClass u = some .gen ↔
    (n.tracker u).state = .genStart ∨ (n.tracker u).state = .changeover
      ∨ (n.tracker u).state = .gen ∧ (n.tracker u).pin = .pinned := by
  cases state : (n.tracker u).state <;> simp [Snapshot.pinnedClass, state]

theorem pinnedClass_pump_iff (n : Snapshot) (u : UnitId) : n.pinnedClass u = some .pump ↔
    (n.tracker u).state = .pumpSpin ∨ (n.tracker u).state = .pumpPrime
      ∨ (n.tracker u).state = .pump ∧ (n.tracker u).pin = .pinned := by
  cases state : (n.tracker u).state <;> simp [Snapshot.pinnedClass, state]

theorem pinnedClass_off_iff (n : Snapshot) (u : UnitId) : n.pinnedClass u = some .off ↔
    (n.tracker u).state = .stopping ∨ (n.tracker u).state = .idle ∧ (n.tracker u).pin = .pinned := by
  cases state : (n.tracker u).state <;> simp [Snapshot.pinnedClass, state]

theorem isFree_iff (n : Snapshot) (u : UnitId) :
    n.isFree u = true ↔ n.pinnedClass u = none ∧ n.unavailable u = false := by
  simp [Snapshot.isFree]

/-! ## The set S and its sums (R51) -/

theorem mem_allUnits (u : UnitId) : u ∈ allUnits := by
  fin_cases u <;> decide

theorem mem_pinnedSet_iff (n : Snapshot) (p : Placed) :
    p ∈ n.pinnedSet ↔ n.pinnedClass p.unit = some p.cls ∧ p.basis = .pinned := by
  rcases p with ⟨u, k, basis⟩
  simp only [Snapshot.pinnedSet, List.mem_filterMap, Option.map_eq_some_iff, Placed.mk.injEq]
  constructor
  · rintro ⟨v, -, k', pinned, rfl, rfl, rfl⟩
    exact ⟨pinned, rfl⟩
  · rintro ⟨pinned, rfl⟩
    exact ⟨u, mem_allUnits u, k, pinned, rfl, rfl, rfl⟩

theorem pinnedSet_units_nodup (n : Snapshot) : (n.pinnedSet.map (fun p => p.unit)).Nodup := by
  have units : n.pinnedSet.map (fun p => p.unit) = allUnits.filter (fun u => (n.pinnedClass u).isSome) := by
    rw [Snapshot.pinnedSet, List.map_filterMap, ← List.filterMap_eq_filter]
    refine List.filterMap_congr fun u _ => ?_
    cases pinned : n.pinnedClass u <;> simp [Option.guard, pinned]
  rw [units]
  exact List.Nodup.filter _ (by decide)

theorem loOf_eq_sum (n : Snapshot) (set : List Placed) :
    n.loOf set = (set.map (fun p => (n.band p.unit p.cls).lo)).sum := by
  rw [Snapshot.loOf, List.sum_eq_foldl, List.foldl_map]

theorem hiOf_eq_sum (n : Snapshot) (set : List Placed) :
    n.hiOf set = (set.map (fun p => (n.band p.unit p.cls).hi)).sum := by
  rw [Snapshot.hiOf, List.sum_eq_foldl, List.foldl_map]

/-! ## Who may join (R52, R56) -/

theorem opposite_iff (j k : Cls) : j.opposite k = true ↔ j.Opposed k := by
  cases j <;> cases k <;> simp [Cls.opposite, Cls.Opposed]

theorem Cls.Opposed.symm {j k : Cls} (h : j.Opposed k) : k.Opposed j := by
  cases j <;> cases k <;> trivial

theorem not_opposed_self (k : Cls) : ¬ k.Opposed k := by
  cases k <;> exact id

theorem permits_iff (n : Snapshot) (g : GroupId) : n.permits g = true ↔ n.mayOppose g := by
  simp [Snapshot.permits, Snapshot.mayOppose]

theorem inSet_eq_false_iff (set : List Placed) (u : UnitId) : inSet set u = false ↔ ∀ p ∈ set, p.unit ≠ u := by
  simp [inSet]

theorem groupOpposed_eq_false_iff (n : Snapshot) (set : List Placed) (g : GroupId) (k : Cls) :
    n.groupOpposed set g k = false
      ↔ ∀ p ∈ set, p.cls.Opposed k → ∀ q, n.unit p.unit = some q → q.group ≠ g := by
  simp only [Snapshot.groupOpposed, List.any_eq_false, Bool.and_eq_true, opposite_iff, Option.any_eq_true,
    beq_iff_eq, not_and, not_exists]

/-- The eligibility of an addition is `MayJoin` (R52). -/
theorem eligible_iff (n : Snapshot) (set : List Placed) (u : UnitId) (k : Cls) :
    n.eligible set u k = true ↔ n.MayJoin set u k := by
  unfold Snapshot.eligible Snapshot.MayJoin
  cases n.unit u with
  | none => simp
  | some r =>
    simp only [Bool.and_eq_true, Bool.or_eq_true, Bool.not_eq_true', inSet_eq_false_iff,
      groupOpposed_eq_false_iff, permits_iff, bne_iff_ne, beq_iff_eq, Option.some.injEq, exists_eq_left', and_assoc]
    tauto

/-- A machine that may join a set may join a part of it (R52). -/
theorem Snapshot.MayJoin.of_subset {n : Snapshot} {set more : List Placed} {u : UnitId} {k : Cls}
    (h : n.MayJoin more u k) (part : set ⊆ more) : n.MayJoin set u k := by
  obtain ⟨free, apart, r, record, group, reach⟩ := h
  exact ⟨free, fun p hp => apart p (part hp), r, record, group.imp_right fun clear p hp => clear p (part hp), reach⟩

theorem not_mayJoin_self (n : Snapshot) (set : List Placed) (p : Placed) (k : Cls) (h : p ∈ set) :
    ¬ n.MayJoin set p.unit k := fun joins => joins.2.1 p h rfl

/-- The test of the short-circuit walk is `Bridges` (R56). -/
theorem fitsShortCircuit_iff (n : Snapshot) (set : List Placed) (u : UnitId) :
    n.fitsShortCircuit set u = true ↔ n.Bridges set u := by
  unfold Snapshot.fitsShortCircuit Snapshot.Bridges Snapshot.MayJoin
  cases record : n.unit u with
  | none => simp
  | some r =>
    simp only [Bool.and_eq_true, Bool.or_eq_true, Bool.not_eq_true', inSet_eq_false_iff,
      groupOpposed_eq_false_iff, permits_iff, decide_eq_true_eq, Option.some.injEq, exists_eq_left', loOf_eq_sum,
      hiOf_eq_sum, List.map_append, List.sum_append, List.map_cons, List.map_nil, List.sum_singleton, Snapshot.band,
      record, UnitRecord.band, forall_eq', reduceCtorEq, IsEmpty.forall_iff, and_true, and_assoc]

/-! ## Machines that join in turn -/

/-- Each member of a list stands in a relation to the members before it. -/
def InTurn (P : List Placed → Placed → Prop) (l : List Placed) : Prop :=
  ∀ pre p post, l = pre ++ p :: post → P pre p

theorem inTurn_nil (P : List Placed → Placed → Prop) : InTurn P [] := by
  intro pre p post h
  simp at h

theorem inTurn_concat {P : List Placed → Placed → Prop} {l : List Placed} {x : Placed} :
    InTurn P (l ++ [x]) ↔ InTurn P l ∧ P l x := by
  constructor
  · exact fun h => ⟨fun pre p post e => h pre p (post ++ [x]) (by simp [e]), h l x [] rfl⟩
  · rintro ⟨before, last⟩ pre p post e
    rcases List.eq_nil_or_concat' post with rfl | ⟨post, y, rfl⟩
    · obtain ⟨rfl, rfl⟩ := List.append_singleton_inj.1 e
      exact last
    · rw [← List.cons_append, ← List.append_assoc] at e
      exact before pre p post (List.append_singleton_inj.1 e).1

theorem InTurn.mono {P Q : List Placed → Placed → Prop} {l : List Placed} (h : InTurn P l)
    (imp : ∀ pre p, P pre p → Q pre p) : InTurn Q l := fun pre p post e => imp pre p (h pre p post e)

theorem InTurn.left {P : List Placed → Placed → Prop} {l m : List Placed} (h : InTurn P (l ++ m)) : InTurn P l :=
  fun pre p post e => h pre p (post ++ m) (by simp [e])

/-! ## A walk as one run over the machines that it tests (R53) -/

/-- A machine as a walk in a class adds it. -/
def Snapshot.joiner (n : Snapshot) (k : Cls) (u : UnitId) : Placed :=
  ⟨u, k, if (n.tracker u).state = .idle then .addedIdle else .addedSteady⟩

/-- A walk tests one machine. -/
def Snapshot.test (n : Snapshot) (cond : List Placed → Bool) (k : Cls) (set : List Placed) (u : UnitId) :
    List Placed :=
  if cond set && n.eligible set u k then set ++ [n.joiner k u] else set

theorem foldl_test_met (n : Snapshot) (cond : List Placed → Bool) (k : Cls) (set : List Placed)
    (met : cond set = false) (l : List UnitId) : l.foldl (n.test cond k) set = set := by
  induction l with
  | nil => rfl
  | cons u rest ih => simpa [Snapshot.test, met] using ih

/-- A pass tests the machines of the merit list in its state. -/
theorem walkPass_eq (n : Snapshot) (cond : List Placed → Bool) (st : TState) (k : Cls) (basis : Basis)
    (tells : basis = if st = .idle then .addedIdle else .addedSteady) (merit : List UnitId) (set : List Placed) :
    n.walkPass cond st k basis merit set
      = (merit.filter (fun u => (n.tracker u).state == st)).foldl (n.test cond k) set := by
  induction merit generalizing set with
  | nil => rfl
  | cons u rest ih =>
    rw [Snapshot.walkPass]
    cases met : cond set with
    | false => exact (foldl_test_met n cond k set met _).symm
    | true =>
      by_cases state : (n.tracker u).state = st
      · have joiner : n.joiner k u = ⟨u, k, basis⟩ := by rw [Snapshot.joiner, state, tells]
        cases able : n.eligible set u k <;> simp [ih, state, able, met, Snapshot.test, joiner]
      · simp [ih, state]

theorem walk_eq (n : Snapshot) (cond : List Placed → Bool) (steadyIn : TState) (moves : steadyIn ≠ .idle) (k : Cls)
    (merit : List UnitId) (set : List Placed) :
    n.walk cond steadyIn k merit set = (n.walkOrder steadyIn merit).foldl (n.test cond k) set := by
  rw [Snapshot.walk, walkPass_eq n cond steadyIn k _ (if_neg moves).symm, walkPass_eq n cond .idle k _ (by simp),
    Snapshot.walkOrder, List.foldl_append]

/-- What a machine that a walk added meets: the target was missed, it could join, and no machine tested before it
could (R53). -/
structure Snapshot.Joined (n : Snapshot) (unmet : List Placed → Prop) (k : Cls) (tested : List UnitId)
    (pre : List Placed) (p : Placed) : Prop where
  unmet : unmet (n.pinnedSet ++ pre)
  joins : n.MayJoin (n.pinnedSet ++ pre) p.unit k
  is : p = n.joiner k p.unit
  first : ∃ a b, tested = a ++ p.unit :: b ∧ ∀ u ∈ a, ¬ n.MayJoin (n.pinnedSet ++ pre) u k

/-- What a walk has done after the machines that it has tested (R53). -/
structure Snapshot.Tested (n : Snapshot) (unmet : List Placed → Prop) (k : Cls) (tested : List UnitId)
    (walked : List Placed) : Prop where
  inOrder : (walked.map (fun p => p.unit)).Sublist tested
  joined : InTurn (n.Joined unmet k tested) walked
  ends : unmet (n.pinnedSet ++ walked) → ∀ u ∈ tested, ¬ n.MayJoin (n.pinnedSet ++ walked) u k

theorem Snapshot.Joined.more {n : Snapshot} {unmet : List Placed → Prop} {k : Cls} {tested : List UnitId}
    {pre : List Placed} {p : Placed} (h : n.Joined unmet k tested pre p) (u : UnitId) :
    n.Joined unmet k (tested ++ [u]) pre p := by
  obtain ⟨a, b, place, refused⟩ := h.first
  exact ⟨h.unmet, h.joins, h.is, a, b ++ [u], by simp [place], refused⟩

theorem foldl_test_tested (n : Snapshot) (cond : List Placed → Bool) (k : Cls) (l : List UnitId) :
    ∃ walked, l.foldl (n.test cond k) n.pinnedSet = n.pinnedSet ++ walked
      ∧ n.Tested (fun set => cond set = true) k l walked := by
  induction l using List.reverseRecOn with
  | nil => exact ⟨[], (List.append_nil _).symm, List.Sublist.refl _, inTurn_nil _, fun _ u hu => by cases hu⟩
  | append_singleton l u ih =>
    obtain ⟨walked, run, inOrder, joined, ends⟩ := ih
    rw [List.foldl_append, run, List.foldl_cons, List.foldl_nil, Snapshot.test]
    have before : InTurn (n.Joined (fun set => cond set = true) k (l ++ [u])) walked :=
      joined.mono fun _ _ h => h.more u
    by_cases adds : cond (n.pinnedSet ++ walked) = true ∧ n.MayJoin (n.pinnedSet ++ walked) u k
    · obtain ⟨unmet, joins⟩ := adds
      have refused := ends unmet
      rw [if_pos (by simp [unmet, eligible_iff, joins]), List.append_assoc]
      refine ⟨walked ++ [n.joiner k u], rfl, ?_, inTurn_concat.2 ⟨before, unmet, joins, rfl, l, [], rfl, refused⟩,
        fun _ v hv => ?_⟩
      · rw [List.map_append]
        exact inOrder.append (List.Sublist.refl _)
      · rcases List.mem_append.1 hv with old | new
        · exact fun may => refused v old (may.of_subset (by simp))
        · obtain rfl := List.mem_singleton.1 new
          exact not_mayJoin_self n _ (n.joiner k v) k (by simp)
    · rw [if_neg (by simpa [eligible_iff] using adds)]
      refine ⟨walked, rfl, inOrder.trans (List.sublist_append_left _ _), before, fun unmet v hv => ?_⟩
      rcases List.mem_append.1 hv with old | new
      · exact ends unmet v old
      · obtain rfl := List.mem_singleton.1 new
        exact fun may => adds ⟨unmet, may⟩

/-- What a list holds before the first place of an entry. -/
theorem takeWhile_before {α : Type} [BEq α] [LawfulBEq α] (x : α) (a b : List α) (h : x ∉ a) :
    (a ++ x :: b).takeWhile (fun y => y != x) = a := by
  rw [List.takeWhile_append_of_pos (fun y hy => by simpa using ne_of_mem_of_not_mem hy h)]
  simp

/-- What a walk has done at its end, in the statement's words. -/
theorem Snapshot.Tested.walks {n : Snapshot} {unmet : List Placed → Prop} {steadyIn : TState} {k : Cls}
    {merit : List UnitId} {walked : List Placed} (h : n.Tested unmet k (n.walkOrder steadyIn merit) walked) :
    n.Walks unmet steadyIn k merit walked where
  inOrder := h.inOrder
  joins pre p post e := by
    obtain ⟨missed, joins, is, -⟩ := h.joined pre p post e
    exact ⟨missed, joins, congrArg Placed.cls is, congrArg Placed.basis is⟩
  skips pre p post a b e order fresh := by
    obtain ⟨-, joins, -, c, d, place, refused⟩ := h.joined pre p post e
    have once : p.unit ∉ c := fun again => refused _ again joins
    have same : a = c := by
      rw [← takeWhile_before p.unit a b fresh, ← order, place, takeWhile_before p.unit c d once]
    exact same ▸ refused
  ends := h.ends

theorem walk_walks (n : Snapshot) (cond : List Placed → Bool) (steadyIn : TState) (moves : steadyIn ≠ .idle) (k : Cls)
    (merit : List UnitId) : ∃ walked, n.walk cond steadyIn k merit n.pinnedSet = n.pinnedSet ++ walked
      ∧ n.Walks (fun set => cond set = true) steadyIn k merit walked := by
  obtain ⟨walked, run, tested⟩ := foldl_test_tested n cond k (n.walkOrder steadyIn merit)
  exact ⟨walked, (walk_eq n cond steadyIn moves k merit _).trans run, tested.walks⟩

end Sys2Proof.Machine
end

section
/-! PROOFS. What a commitment pass adds and removes, by the sign of the target, and what follows for the machines it
adds (R50 to R56). -/
namespace Sys2Proof.Machine

/-! ## The generate walk and its removal step (R54) -/

/-- The removal step gives back what was removed as the walk's last machines, each of them too much for the
target. -/
theorem removeOver_splits (n : Snapshot) (base l : List Placed) : ∃ gone : List Placed,
    l.reverse = (n.removeOver base l).1.reverse ++ gone
      ∧ (n.removeOver base l).2 = (gone.map (fun p => p.unit)).reverse
      ∧ InTurn (fun pre p => n.tf < n.loOf (base ++ (n.removeOver base l).1.reverse ++ pre ++ [p])) gone
      ∧ ((n.removeOver base l).1 ≠ [] → n.loOf (base ++ (n.removeOver base l).1.reverse) ≤ n.tf) := by
  induction l with
  | nil => exact ⟨[], rfl, rfl, inTurn_nil _, fun kept => absurd rfl kept⟩
  | cons p older ih =>
    obtain ⟨gone, splits, removed, beyond, within⟩ := ih
    rw [Snapshot.removeOver]
    split
    · rename_i exceeds
      have all : (p :: older).reverse = (n.removeOver base older).1.reverse ++ (gone ++ [p]) := by
        rw [List.reverse_cons, splits, List.append_assoc]
      refine ⟨gone ++ [p], all, by simp [removed], inTurn_concat.2 ⟨beyond, ?_⟩, within⟩
      rw [all] at exceeds
      simpa using exceeds
    · rename_i fits
      exact ⟨[], (List.append_nil _).symm, rfl, inTurn_nil _, fun _ => by simpa using fits⟩

theorem commit_generates (n : Snapshot) (h : 0 < n.tf) : ∃ gone : List Placed,
    n.commit.removed = (gone.map (fun p => p.unit)).reverse
      ∧ n.Walks (fun set => n.hiOf set < n.tf) .gen .gen n.meritGen (n.commit.added ++ gone)
      ∧ InTurn (fun pre p => n.tf < n.loOf (n.pinnedSet ++ n.commit.added ++ pre ++ [p])) gone
      ∧ (n.commit.added ≠ [] → n.loOf n.placed ≤ n.tf) := by
  obtain ⟨walked, run, walks⟩ :=
    walk_walks n (fun s => n.hiOf s < n.tf) .gen (by decide) .gen n.meritGen
  obtain ⟨gone, splits, removed, beyond, within⟩ := removeOver_splits n n.pinnedSet walked.reverse
  have chosen : n.chooseMachines = ((n.removeOver n.pinnedSet walked.reverse).1.reverse,
      (n.removeOver n.pinnedSet walked.reverse).2) := by
    simp only [Snapshot.chooseMachines, if_pos h, run, List.drop_left]
  have added : n.commit.added = (n.removeOver n.pinnedSet walked.reverse).1.reverse :=
    congrArg Prod.fst chosen
  have placed : n.placed = n.pinnedSet ++ (n.removeOver n.pinnedSet walked.reverse).1.reverse :=
    congrArg (n.pinnedSet ++ ·) added
  rw [List.reverse_reverse] at splits
  rw [placed, added]
  refine ⟨gone, (congrArg Prod.snd chosen).trans removed, ?_, beyond, fun kept => within (by simpa using kept)⟩
  rw [← splits]
  simpa using walks

/-! ## The pump walk and the short-circuit walk (R55, R56) -/

/-- The short-circuit walk is tried: the pumps overshoot and some group permits it (R56). -/
def Snapshot.Tries (n : Snapshot) (set : List Placed) : Prop := n.hiOf set < n.tf ∧ ∃ g, n.mayOppose g

theorem tries_iff (n : Snapshot) (set : List Placed) :
    n.hiOf set < n.tf ∧ allGroups.any n.permits = true ↔ n.Tries set := by
  have listed : ∀ g : GroupId, g ∈ allGroups := by decide
  simp [Snapshot.Tries, listed, permits_iff]

theorem commit_pumps (n : Snapshot) (h : n.tf < 0) : ∃ pumps : List Placed,
    n.commit.removed = []
      ∧ n.Walks (fun set => n.tf < n.loOf set) .pump .pump n.meritPump pumps
      ∧ (¬ n.Tries (n.pinnedSet ++ pumps) → n.commit.added = pumps)
      ∧ (n.Tries (n.pinnedSet ++ pumps) →
        n.commit.added = pumps ++ ((n.meritGen.find? (n.fitsShortCircuit (n.pinnedSet ++ pumps))).map
          (fun u => (⟨u, .gen, .addedShortCircuit⟩ : Placed))).toList) := by
  obtain ⟨pumps, run, walks⟩ :=
    walk_walks n (fun s => n.tf < n.loOf s) .pump (by decide) .pump n.meritPump
  have chosen : n.chooseMachines = if n.hiOf (n.pinnedSet ++ pumps) < n.tf ∧ allGroups.any n.permits = true
      then (pumps ++ ((n.meritGen.find? (n.fitsShortCircuit (n.pinnedSet ++ pumps))).map
        (fun u => (⟨u, .gen, .addedShortCircuit⟩ : Placed))).toList, [])
      else (pumps, []) := by
    simp only [Snapshot.chooseMachines, if_neg (not_lt.2 h.le), if_pos h, run]
    cases n.meritGen.find? (n.fitsShortCircuit (n.pinnedSet ++ pumps)) <;> simp
  refine ⟨pumps, ?_, by simpa using walks, fun calm => ?_, fun tried => ?_⟩
  · refine (congrArg Prod.snd chosen).trans ?_
    split <;> rfl
  · exact (congrArg Prod.fst chosen).trans (congrArg Prod.fst (if_neg (mt (tries_iff n _).1 calm)))
  · exact (congrArg Prod.fst chosen).trans (congrArg Prod.fst (if_pos ((tries_iff n _).2 tried)))

/-- Below zero the machines added are the pumps of the walk, and behind them at most one machine that the
short-circuit walk takes. -/
theorem commit_pumps_cases (n : Snapshot) (h : n.tf < 0) : ∃ pumps : List Placed,
    n.Walks (fun set => n.tf < n.loOf set) .pump .pump n.meritPump pumps
      ∧ (n.commit.added = pumps ∨ ∃ u ∈ n.meritGen, n.Bridges (n.pinnedSet ++ pumps) u
        ∧ n.commit.added = pumps ++ [⟨u, .gen, .addedShortCircuit⟩]) := by
  obtain ⟨pumps, -, walks, alone, joined⟩ := commit_pumps n h
  refine ⟨pumps, walks, ?_⟩
  by_cases tried : n.Tries (n.pinnedSet ++ pumps)
  · cases found : n.meritGen.find? (n.fitsShortCircuit (n.pinnedSet ++ pumps)) with
    | none => exact .inl (by simpa [found] using joined tried)
    | some u =>
      exact .inr ⟨u, List.mem_of_find?_eq_some found,
        (fitsShortCircuit_iff n _ u).1 (List.find?_some found), by simpa [found] using joined tried⟩
  · exact .inl (alone tried)

theorem commit_zero (n : Snapshot) (h : n.tf = 0) : n.commit.added = [] ∧ n.commit.removed = [] := by
  simp [Snapshot.commit, Snapshot.chooseMachines, h]

/-- Settles O48: the three walks, by the sign of the target. -/
theorem walksMeetTheTarget : Obligations.WalksMeetTheTarget := by
  intro n
  refine ⟨fun set => ⟨loOf_eq_sum n set, hiOf_eq_sum n set⟩, mem_pinnedSet_iff n, commit_zero n, commit_generates n,
    fun negative => ?_⟩
  obtain ⟨pumps, removed, walks, alone, joined⟩ := commit_pumps n negative
  refine ⟨pumps, removed, walks, fun refused => ?_, fun tried a u b order bridges first => ?_⟩
  · by_cases tried : n.Tries (n.pinnedSet ++ pumps)
    · have unfit := refused.resolve_left (not_not.2 tried)
      have found : n.meritGen.find? (n.fitsShortCircuit (n.pinnedSet ++ pumps)) = none :=
        List.find?_eq_none.2 fun u hu fits => unfit u hu ((fitsShortCircuit_iff n _ u).1 fits)
      simpa [found] using joined tried
    · exact alone tried
  · have found : n.meritGen.find? (n.fitsShortCircuit (n.pinnedSet ++ pumps)) = some u :=
      List.find?_eq_some_iff_append.2 ⟨(fitsShortCircuit_iff n _ u).2 bridges, a, b, order,
        fun v hv => by simpa using mt (fitsShortCircuit_iff n _ v).1 (first v hv)⟩
    simpa [found] using joined tried

/-! ## What every machine added meets (R52) -/

/-- The machines of a walk could each join what stood before them. -/
theorem Snapshot.Walks.inTurn {n : Snapshot} {unmet : List Placed → Prop} {steadyIn : TState} {k : Cls}
    {merit : List UnitId} {walked : List Placed} (h : n.Walks unmet steadyIn k merit walked) :
    InTurn (fun pre p => n.MayJoin (n.pinnedSet ++ pre) p.unit p.cls) walked := by
  intro pre p post e
  obtain ⟨-, joins, is, -⟩ := h.joins pre p post e
  exact is ▸ joins

/-- Each machine that a commitment adds could join the set S as it stood (R52). -/
theorem commit_inTurn (n : Snapshot) :
    InTurn (fun pre p => n.MayJoin (n.pinnedSet ++ pre) p.unit p.cls) n.commit.added := by
  rcases lt_trichotomy n.tf 0 with negative | zero | positive
  · obtain ⟨pumps, walks, alone | ⟨u, -, bridges, added⟩⟩ := commit_pumps_cases n negative
    · exact alone ▸ walks.inTurn
    · exact added ▸ inTurn_concat.2 ⟨walks.inTurn, bridges.1⟩
  · exact (commit_zero n zero).1 ▸ inTurn_nil _
  · obtain ⟨gone, -, walks, -, -⟩ := commit_generates n positive
    exact walks.inTurn.left

/-- Two members of the set S in opposite classes in one waterway group stand apart only with leave (R52). -/
def Snapshot.KeptApart (n : Snapshot) (set : List Placed) : Prop :=
  ∀ p ∈ set, ∀ q ∈ set, ∀ r r', n.unit p.unit = some r → n.unit q.unit = some r' → r.group = r'.group →
    p.cls.Opposed q.cls → n.mayOppose r.group ∨ (p ∈ n.pinnedSet ∧ q ∈ n.pinnedSet)

/-- A machine that may join a set whose members are kept apart leaves them so. -/
theorem Snapshot.KeptApart.concat {n : Snapshot} {set : List Placed} {x : Placed} (h : n.KeptApart set)
    (joins : n.MayJoin set x.unit x.cls) : n.KeptApart (set ++ [x]) := by
  obtain ⟨-, -, own, record, group, -⟩ := joins
  have apart : ∀ p ∈ set, p.cls.Opposed x.cls → ∀ r, n.unit p.unit = some r → r.group = own.group →
      n.mayOppose own.group := fun p hp opposed r hr same =>
    group.resolve_right fun clear => clear p hp opposed r hr same
  intro p hp q hq r r' hr hr' same opposed
  rw [List.mem_append, List.mem_singleton] at hp hq
  rcases hp with old | rfl <;> rcases hq with old' | rfl
  · exact h p old q old' r r' hr hr' same opposed
  · obtain rfl := Option.some.inj (record.symm.trans hr')
    exact .inl (same ▸ apart p old opposed r hr same)
  · obtain rfl := Option.some.inj (record.symm.trans hr)
    exact .inl (apart q old' opposed.symm r' hr' same.symm)
  · exact absurd opposed (not_opposed_self _)

theorem keptApart_of_inTurn (n : Snapshot) (l : List Placed)
    (h : InTurn (fun pre p => n.MayJoin (n.pinnedSet ++ pre) p.unit p.cls) l) : n.KeptApart (n.pinnedSet ++ l) := by
  induction l using List.reverseRecOn with
  | nil =>
    rw [List.append_nil]
    exact fun p hp q hq _ _ _ _ _ _ => .inr ⟨hp, hq⟩
  | append_singleton l x ih =>
    obtain ⟨before, joins⟩ := inTurn_concat.1 h
    rw [← List.append_assoc]
    exact (ih before).concat joins

/-- Settles O46: the machines that a commitment adds join one by one, each with leave of its group or apart from the
opposite class. -/
theorem commitmentKeepsWaterwaysApart : Obligations.CommitmentKeepsWaterwaysApart :=
  fun n p q r r' hp hq => keptApart_of_inTurn n _ (commit_inTurn n) p hp q hq r r'

theorem units_nodup_of_inTurn (n : Snapshot) (l : List Placed)
    (h : InTurn (fun pre p => n.MayJoin (n.pinnedSet ++ pre) p.unit p.cls) l) :
    ((n.pinnedSet ++ l).map (fun p => p.unit)).Nodup := by
  induction l using List.reverseRecOn with
  | nil => simpa using pinnedSet_units_nodup n
  | append_singleton l x ih =>
    obtain ⟨before, -, fresh, -⟩ := inTurn_concat.1 h
    rw [← List.append_assoc, List.map_append, List.map_singleton, ← List.concat_eq_append]
    exact (ih before).concat (by simpa [or_imp, forall_and] using fresh)

/-- What a walk adds: machines of its class from its merit list, steady in the class or IDLE, that could join. -/
theorem Snapshot.Walks.mem {n : Snapshot} {unmet : List Placed → Prop} {steadyIn : TState} {k : Cls}
    {merit : List UnitId} {walked : List Placed} (h : n.Walks unmet steadyIn k merit walked)
    (moves : steadyIn ≠ .idle) (p : Placed) (hp : p ∈ walked) :
    p.cls = k ∧ p.unit ∈ merit ∧ (p.basis = .addedSteady ∧ (n.tracker p.unit).state = steadyIn
      ∨ p.basis = .addedIdle ∧ (n.tracker p.unit).state = .idle) ∧ ∃ set, n.MayJoin set p.unit k := by
  obtain ⟨pre, post, e⟩ := List.append_of_mem hp
  obtain ⟨-, joins, is, basis⟩ := h.joins pre p post e
  have tested : p.unit ∈ n.walkOrder steadyIn merit := h.inOrder.subset (List.mem_map_of_mem hp)
  simp only [Snapshot.walkOrder, List.mem_append, List.mem_filter, beq_iff_eq] at tested
  refine ⟨is, tested.elim And.left And.left, ?_, _, joins⟩
  rcases tested with ⟨-, state⟩ | ⟨-, state⟩
  · exact .inl ⟨by rw [basis, state, if_neg moves], state⟩
  · exact .inr ⟨by rw [basis, if_pos state], state⟩

/-- An IDLE machine that may join as a pump has a converter in its reach (R52). -/
theorem Snapshot.MayJoin.reach {n : Snapshot} {set : List Placed} {u : UnitId} (h : n.MayJoin set u .pump)
    (idle : (n.tracker u).state = .idle) : ∃ r, n.unit u = some r ∧ (r.reach1 = true ∨ r.reach2 = true) := by
  obtain ⟨-, -, r, record, -, reach⟩ := h
  refine ⟨r, record, ?_⟩
  simpa [idle] using reach rfl

/-- The sums of a set with the machine of the short-circuit walk bring the target between them (R56). -/
theorem Snapshot.Bridges.meets {n : Snapshot} {set : List Placed} {u : UnitId} (h : n.Bridges set u) :
    n.loOf (set ++ [⟨u, .gen, .addedShortCircuit⟩]) ≤ n.tf
      ∧ n.tf ≤ n.hiOf (set ++ [⟨u, .gen, .addedShortCircuit⟩]) := by
  obtain ⟨⟨-, -, r, record, -⟩, between⟩ := h
  simpa [loOf_eq_sum, hiOf_eq_sum, Snapshot.band, record, UnitRecord.band] using between r record

/-- Settles O47: the sorting state by state, and the machines added by the walk that added them. -/
theorem commitmentAddsEligibleMachines : Obligations.CommitmentAddsEligibleMachines := by
  intro n
  refine ⟨fun u => ⟨unavailable_iff n u, pinnedClass_gen_iff n u, pinnedClass_pump_iff n u, pinnedClass_off_iff n u,
    isFree_iff n u⟩, units_nodup_of_inTurn n _ (commit_inTurn n), fun p hp => ⟨?free, ?added⟩⟩
  case free =>
    obtain ⟨pre, post, e⟩ := List.append_of_mem hp
    exact (commit_inTurn n pre p post e).1
  rcases lt_trichotomy n.tf 0 with negative | zero | positive
  · obtain ⟨pumps, walks, added⟩ := commit_pumps_cases n negative
    have cases : p ∈ pumps ∨ ∃ u ∈ n.meritGen, n.Bridges (n.pinnedSet ++ pumps) u
        ∧ n.commit.added = pumps ++ [⟨u, .gen, .addedShortCircuit⟩] ∧ p = ⟨u, .gen, .addedShortCircuit⟩ := by
      rcases added with alone | ⟨u, merit, bridges, joined⟩
      · exact .inl (alone ▸ hp)
      · rw [joined, List.mem_append, List.mem_singleton] at hp
        exact hp.imp_right fun is => ⟨u, merit, bridges, joined, is⟩
    rcases cases with pump | ⟨u, merit, bridges, joined, rfl⟩
    · obtain ⟨cls, merit, ⟨basis, state⟩ | ⟨basis, state⟩, set, joins⟩ := walks.mem (by decide) p pump
      · simp [basis, cls, state, negative, merit]
      · have reach := joins.reach state
        simp [basis, cls, state, negative, merit, reach]
    · have meets := bridges.meets
      rw [List.append_assoc, ← joined] at meets
      have placed : n.placed = n.pinnedSet ++ n.commit.added := rfl
      simp [negative, merit, placed, meets]
  · rw [(commit_zero n zero).1] at hp
    cases hp
  · obtain ⟨gone, -, walks, -, -⟩ := commit_generates n positive
    obtain ⟨cls, merit, ⟨basis, state⟩ | ⟨basis, state⟩, -⟩ :=
      walks.mem (by decide) p (List.mem_append_left _ hp)
    · simp [basis, cls, state, positive, merit]
    · simp [basis, cls, state, positive, merit]

end Sys2Proof.Machine
end

section
/-! PROOFS. The loading pass as a completion applies it: the machines of its setpoints, the publishing of D, and the
SETPOINT orders with the trackers that record them (R69, R70, R75, R80). -/
namespace Sys2Proof.Machine

/-! ## The machines of a loading pass (R66, R72, R73) -/

theorem handOut_fst (x span : Int) (l : List Loaded) : ∀ r, (handOut x span r l).map Prod.fst = l := by
  induction l with
  | nil => exact fun _ => rfl
  | cons m rest ih =>
    intro r
    cases r with
    | zero => simp [handOut, ih]
    | succ k =>
      by_cases wide : 0 < m.band.width
      · simp [handOut, wide, ih]
      · simp [handOut, wide, ih]

theorem loadedAs_unit {n : Snapshot} {desired : Option (UnitId → Cls)} {u : UnitId} {m : Loaded}
    (h : n.loadedAs desired u = some m) : m.unit = u := by
  unfold Snapshot.loadedAs at h
  split at h
  · split at h
    · rw [← Option.some.inj h]
    · cases h
  · cases h

theorem setpointFor_unit {n : Snapshot} {mc : Loaded × Int} {p : Setpoint} (h : n.setpointFor mc = some p) :
    p.unit = mc.1.unit := by
  unfold Snapshot.setpointFor at h
  split at h
  · cases h
  · obtain ⟨v, -, rfl⟩ := Option.map_eq_some_iff.1 h
    rfl

/-- The entries that a partial function makes keep the order of what they are made from. -/
theorem pairwise_filterMap {α β : Type} (f : α → Option β) (key : α → UnitId) (key' : β → UnitId)
    (keeps : ∀ a b, f a = some b → key' b = key a) (l : List α) (h : (l.map key).Pairwise (· < ·)) :
    ((l.filterMap f).map key').Pairwise (· < ·) := by
  rw [List.pairwise_map] at h ⊢
  rw [List.pairwise_filterMap]
  exact h.imp fun {a b} less c hc d hd => by rwa [keeps a c hc, keeps b d hd]

/-- The setpoints of a loading pass stand in ascending index, at most one for each machine. -/
theorem setpoints_ascending (n : Snapshot) (desired : Option (UnitId → Cls)) :
    ((n.loading desired).setpoints.map (fun p => p.unit)).Pairwise (· < ·) := by
  have steady : ((n.steadySet desired).map (fun m => m.unit)).Pairwise (· < ·) :=
    pairwise_filterMap (n.loadedAs desired) id _ (fun _ _ h => loadedAs_unit h) allUnits (by decide)
  refine pairwise_filterMap n.setpointFor (fun mc => mc.1.unit) _ (fun _ _ h => setpointFor_unit h) _ ?_
  have machines (rc : Int) : (contributions (n.steadySet desired) rc).map (fun mc => mc.1.unit)
      = (n.steadySet desired).map (fun m => m.unit) :=
    List.map_map.symm.trans (congrArg (List.map fun m => m.unit) (handOut_fst _ _ _ _))
  rw [machines]
  exact steady

theorem setpoints_once (n : Snapshot) (desired : Option (UnitId → Cls)) :
    ((n.loading desired).setpoints.map (fun p => p.unit)).Nodup :=
  (setpoints_ascending n desired).imp fun less => ne_of_lt less

/-! ## Orders after a detection (R133, R134) -/

/-- The choice of a poll reads the forward-up queue alone of the dispatch port (R149). -/
theorem choosePoll_setPort (s : State) (p : DispatchPort) (h : p.forwardUp = s.port.forwardUp) :
    (s.setPort p).choosePoll = s.choosePoll.setPort p := by
  unfold State.choosePoll
  rw [State.setPort_line, State.setPort_port, h]
  split
  · rfl
  · split
    · rfl
    · split <;> rfl

theorem lineChoose_setPort (s : State) (p : DispatchPort) (h : p.forwardUp = s.port.forwardUp) :
    (s.setPort p).lineChoose = s.lineChoose.setPort p := by
  unfold State.lineChoose
  rw [State.setPort_line]
  split
  · rfl
  · split
    · rfl
    · split
      · rfl
      · exact choosePoll_setPort s p h

theorem placeOrders_setPort (orders : List Order) (p : DispatchPort) : ∀ s : State, p.forwardUp = s.port.forwardUp →
    (s.setPort p).placeOrders orders = (s.placeOrders orders).setPort p := by
  induction orders with
  | nil => exact fun _ _ => rfl
  | cons o rest ih =>
    intro s h
    have placed : (s.setPort p).placeOrder o = (s.placeOrder o).setPort p :=
      lineChoose_setPort (s.setLine { s.line with orders := insertOrder s.now o s.line.orders }) p h
    have port : (s.placeOrder o).port = s.port := frame_placeOrder s o .port (by decide)
    rw [State.placeOrders, List.foldl_cons, placed]
    exact ih (s.placeOrder o) (by rw [port, h])

/-! ## The publishing of D (R69, R70) -/

theorem publishDeviation_only (s : State) (d : Int) : ∃ e own tx, s.publishDeviation d
    = ((s.setSolver { s.solver with deviation := d }).setErrors e).setPort { s.port with own := own, tx := tx }
      ∧ e.now = s.errors.now := by
  unfold State.publishDeviation
  simp only
  split
  · exact detectAt_only (s.setSolver { s.solver with deviation := d }) .deviation 0
  · exact ⟨s.errors, s.port.own, s.port.tx, rfl, rfl⟩

/-- D is published, with or without a DEVIATION, and orders find and leave the line as before. -/
theorem publishDeviation_leaves (s : State) (d : Int) :
    (s.publishDeviation d).solver = { s.solver with deviation := d } ∧ (s.publishDeviation d).now = s.now
      ∧ Unchanged [.solver, .errors, .port] s (s.publishDeviation d)
      ∧ ∀ orders, ((s.publishDeviation d).placeOrders orders).line = (s.placeOrders orders).line := by
  obtain ⟨e, own, tx, published, now⟩ := publishDeviation_only s d
  rw [published]
  refine ⟨rfl, now, ((frame_setSolver s _).seq (frame_setErrors _ _)).seq (frame_setPort _ _), fun orders => ?_⟩
  let y := (s.setSolver { s.solver with deviation := d }).setErrors e
  have ported := placeOrders_setPort orders { s.port with own := own, tx := tx } y rfl
  have same : LineSees s y := ⟨rfl, now, rfl, rfl⟩
  exact (congrArg State.line ported).trans (placeOrders_congr orders same).line

theorem publishDeviation_records (s : State) (d : Int) (past : s.settings.devThreshold < d.natAbs)
    (place : s.ownHasPlace) : s.Records (s.publishDeviation d) (detection .deviation 0) := by
  have told : s.publishDeviation d = (s.setSolver { s.solver with deviation := d }).detectAt .deviation 0 :=
    if_pos past
  rw [told]
  exact (detect_records (s.setSolver { s.solver with deviation := d }) _ place).1.congr rfl rfl rfl rfl rfl

theorem publishDeviation_quiet (s : State) (d : Int) (within : d.natAbs ≤ s.settings.devThreshold) :
    s.publishDeviation d = s.setSolver { s.solver with deviation := d } := if_neg (Nat.not_lt.2 within)

/-! ## The SETPOINT orders (R75) -/

/-- The order of a setpoint. -/
def Setpoint.order (p : Setpoint) : Order := .unit p.unit (.setpoint p.value)

/-- A machine is sent its setpoint: it is not withheld, stands in the steady state of the snapshot, and was last sent
another value (R75). -/
def State.sends (s : State) (withheld : UnitId → Bool) (p : Setpoint) : Bool :=
  decide (withheld p.unit = false ∧ (s.tracker p.unit).state = p.state ∧ (s.tracker p.unit).lastSent ≠ some p.value)

/-- Setpoints have been sent: their orders are placed, and the trackers of their machines record them. -/
structure State.Sends (s t : State) (sent : List Setpoint) : Prop where
  line : t.line = (s.placeOrders (sent.map Setpoint.order)).line
  told : ∀ p ∈ sent, t.tracker p.unit = { s.tracker p.unit with lastSent := some p.value }
  others : ∀ u, (∀ p ∈ sent, p.unit ≠ u) → t.tracker u = s.tracker u
  unchanged : Unchanged [.trackers, .line] s t

theorem frame_sendSetpoint (s : State) (p : Setpoint) : Unchanged [.trackers, .line] s (s.sendSetpoint p) := by
  unfold State.sendSetpoint
  simp only
  split
  · exact (frame_setTracker s _ _).seq (frame_placeOrder _ _)
  · exact .refl _ s

/-- A setpoint leaves the trackers of the other machines. -/
theorem sendSetpoint_tracker (s : State) (p : Setpoint) (u : UnitId) (h : p.unit ≠ u) :
    (s.sendSetpoint p).tracker u = s.tracker u := by
  unfold State.sendSetpoint
  simp only
  split
  · have stood := frame_placeOrder (s.setTracker p.unit { s.tracker p.unit with lastSent := some p.value })
      p.order .trackers (by decide)
    exact (congrArg (fun r => r.get u) stood).trans (upd_get_ne _ _ h)
  · rfl

/-- A setpoint sent ahead of the others. -/
theorem State.Sends.cons {s t : State} {p : Setpoint} {sent : List Setpoint} (h : (s.sendSetpoint p).Sends t sent)
    (fresh : ∀ q ∈ sent, q.unit ≠ p.unit) (now : (s.tracker p.unit).state = p.state)
    (new : (s.tracker p.unit).lastSent ≠ some p.value) : s.Sends t (p :: sent) := by
  have placed : s.sendSetpoint p
      = (s.setTracker p.unit { s.tracker p.unit with lastSent := some p.value }).placeOrder p.order :=
    if_pos ⟨now, new⟩
  have own : (s.sendSetpoint p).tracker p.unit = { s.tracker p.unit with lastSent := some p.value } := by
    have stood := frame_placeOrder (s.setTracker p.unit { s.tracker p.unit with lastSent := some p.value })
      p.order .trackers (by decide)
    rw [placed]
    exact (congrArg (fun r => r.get p.unit) stood).trans (upd_get_self _ _ _)
  refine ⟨h.line.trans ?_, fun q hq => ?_, fun u hu => ?_, (frame_sendSetpoint s p).trans h.unchanged⟩
  · rw [placed]
    exact (placeOrders_congr (p.order :: sent.map Setpoint.order) (.of_unchanged (frame_setTracker s _ _))).line
  · rcases List.mem_cons.1 hq with rfl | later
    · rw [h.others _ fresh, own]
    · rw [h.told q later, sendSetpoint_tracker s p q.unit (fresh q later).symm]
  · rw [h.others u fun q hq => hu q (List.mem_cons_of_mem _ hq),
      sendSetpoint_tracker s p u (hu p (List.mem_cons_self ..))]

/-- The setpoints of a pass, each for another machine, are sent to the machines that they fit. -/
theorem foldl_sendSetpoint_sends (withheld : UnitId → Bool) (l : List Setpoint) :
    ∀ s : State, (l.map (fun p => p.unit)).Nodup →
      s.Sends (l.foldl (fun acc p => if withheld p.unit then acc else acc.sendSetpoint p) s)
        (l.filter (s.sends withheld)) := by
  induction l with
  | nil => exact fun s _ => ⟨rfl, by simp, fun _ _ => rfl, .refl _ s⟩
  | cons p rest ih =>
    intro s once
    obtain ⟨fresh, once⟩ := List.nodup_cons.1 once
    have apart : ∀ q ∈ rest, q.unit ≠ p.unit := fun q hq e => fresh (List.mem_map.2 ⟨q, hq, e⟩)
    rw [List.foldl_cons]
    by_cases sent : s.sends withheld p = true
    · obtain ⟨unheld, now, new⟩ := of_decide_eq_true sent
      have same : rest.filter ((s.sendSetpoint p).sends withheld) = rest.filter (s.sends withheld) :=
        List.filter_congr fun q hq => by
          simp only [State.sends, sendSetpoint_tracker s p q.unit (apart q hq).symm]
      rw [if_neg (by simp [unheld]), List.filter_cons_of_pos sent, ← same]
      exact (ih _ once).cons (fun q hq => apart q (List.mem_of_mem_filter hq)) now new
    · have kept : (if withheld p.unit then s else s.sendSetpoint p) = s := by
        split
        · rfl
        · rename_i unheld
          exact if_neg fun fits => sent (decide_eq_true ⟨by simpa using unheld, fits⟩)
      rw [kept, List.filter_cons_of_neg sent]
      exact ih s once

/-! ## The pass applied (R75, R80) -/

/-- A loading pass has been applied: D published and judged, and the setpoints `sent` sent. -/
structure State.Loads (s t : State) (d : Int) (sent : List Setpoint) : Prop where
  line : t.line = (sent.foldl (fun x p => x.placeOrder (.unit p.unit (.setpoint p.value))) s).line
  told : ∀ p ∈ sent, t.tracker p.unit = { s.tracker p.unit with lastSent := some p.value }
  others : ∀ u, (∀ p ∈ sent, p.unit ≠ u) → t.tracker u = s.tracker u
  solver : t.solver = { s.solver with deviation := d }
  now : t.now = s.now
  records : s.settings.devThreshold < d.natAbs → s.ownHasPlace → s.Records t (detection .deviation 0)
  quiet : d.natAbs ≤ s.settings.devThreshold → t.errors = s.errors ∧ t.port = s.port
  unchanged : Unchanged [.solver, .trackers, .line, .errors, .port] s t

theorem applyLoading_loads (s : State) (l : Loading) (withheld : UnitId → Bool)
    (once : (l.setpoints.map (fun p => p.unit)).Nodup) :
    s.Loads (s.applyLoading l withheld) l.deviation (l.setpoints.filter (s.sends withheld)) := by
  let y := s.publishDeviation l.deviation
  obtain ⟨solver, now, frame, lines⟩ := publishDeviation_leaves s l.deviation
  have tracker (u : UnitId) : y.tracker u = s.tracker u :=
    congrArg (fun r => r.get u) (frame .trackers (by decide))
  have sameSends : y.sends withheld = s.sends withheld := by
    funext p
    simp only [State.sends, tracker]
  have sends : y.Sends (s.applyLoading l withheld) (l.setpoints.filter (s.sends withheld)) :=
    sameSends ▸ foldl_sendSetpoint_sends withheld l.setpoints y once
  have errors := sends.unchanged .errors (by decide)
  have port := sends.unchanged .port (by decide)
  refine ⟨?_, fun p hp => ?_, fun u hu => ?_, (sends.unchanged .solver (by decide)).trans solver,
    (congrArg ErrorMonitor.now errors).trans now, fun past place => ?_, fun within => ?_,
    (frame.seq sends.unchanged).mono (by decide)⟩
  · rw [sends.line, lines, State.placeOrders, List.foldl_map]
    rfl
  · rw [sends.told p hp, tracker]
  · rw [sends.others u hu, tracker]
  · exact (publishDeviation_records s _ past place).congr rfl rfl rfl errors port
  · have quiet : y = s.setSolver { s.solver with deviation := l.deviation } := publishDeviation_quiet s _ within
    exact ⟨errors.trans (by rw [quiet]; rfl), port.trans (by rw [quiet]; rfl)⟩

end Sys2Proof.Machine
end

section
/-! PROOFS. The completion of a load-only solve (R49, R70, R75, R80). -/
namespace Sys2Proof.Machine

/-! ## What the choice of the next solve reads (R39, R49) -/

theorem startLoad_congr {s t : State} (h : SolverSees s t) : t.startLoad.solver = s.startLoad.solver := by
  simp only [State.startLoad, State.setSolver_solver, h.solver, h.snapshot]

theorem actOnLatches_congr {s t : State} (h : SolverSees s t) : t.actOnLatches.solver = s.actOnLatches.solver := by
  unfold State.actOnLatches
  rw [h.solver]
  split
  · exact startFull_congr (h.setSolver _)
  · split
    · exact startLoad_congr h
    · rfl

/-- The solver after the choice of what follows depends on what a trigger reads alone. -/
theorem chooseNextSolve_congr {s t : State} (h : SolverSees s t) (absorbed : Bool) :
    (t.chooseNextSolve absorbed).solver = (s.chooseNextSolve absorbed).solver := by
  unfold State.chooseNextSolve
  rw [h.solver]
  split
  · exact actOnLatches_congr h
  · split
    · exact startLoad_congr h
    · rfl

/-! ## LOAD_SOLVE_COMPLETE (R80) -/

/-- What the choice of the next solve reads of a loading pass is D and the last-sent setpoints. -/
theorem State.Loads.sees {s x : State} {d : Int} {sent : List Setpoint} (h : s.Loads x d sent) :
    SolverSees ((s.setTrackers x.trackers).setSolver { s.solver with deviation := d }) x := by
  have target : x.target = s.target := h.unchanged .target (by decide)
  have inputs : x.inputs = s.inputs := h.unchanged .inputs (by decide)
  have table : x.table = s.table := h.unchanged .table (by decide)
  have queue : x.queue = s.queue := h.unchanged .queue (by decide)
  refine ⟨h.solver, isRemote_congr target inputs, h.unchanged .settings (by decide),
    h.unchanged .processing (by decide), ?_⟩
  simp only [State.snapshot, h.now, target, table, queue]
  rfl

/-- A machine of a pass that stands in its steady state has been sent its value, now or before. -/
theorem State.Loads.lastSent {s x : State} {d : Int} {l : List Setpoint}
    (h : s.Loads x d (l.filter (s.sends fun _ => false))) (once : (l.map (fun p => p.unit)).Nodup) (p : Setpoint)
    (hp : p ∈ l) (stands : (s.tracker p.unit).state = p.state) : (x.tracker p.unit).lastSent = some p.value := by
  by_cases sent : s.sends (fun _ => false) p = true
  · rw [h.told p (List.mem_filter.2 ⟨hp, sent⟩)]
  · have before : (s.tracker p.unit).lastSent = some p.value := by
      simpa [State.sends, stands] using sent
    rw [h.others p.unit fun q hq same => ?_, before]
    obtain rfl := List.inj_on_of_nodup_map once (List.mem_of_mem_filter hq) hp same
    exact sent (List.mem_filter.1 hq).2

/-- A loading pass changes no more than the last-sent setpoint of a tracker. -/
theorem State.Loads.tracker {s x : State} {d : Int} {sent : List Setpoint} (h : s.Loads x d sent) (u : UnitId) :
    { x.tracker u with lastSent := (s.tracker u).lastSent } = s.tracker u := by
  by_cases told : ∃ p ∈ sent, p.unit = u
  · obtain ⟨p, hp, rfl⟩ := told
    rw [h.told p hp]
  · rw [h.others u fun p hp same => told ⟨p, hp, same⟩]

theorem exec_loadSolveComplete (s : State) (n : Snapshot) (running : s.processing ≠ .deviceReset)
    (remote : s.isRemote = true) (phase : s.solver.phase = .load n) :
    exec .loadSolveComplete s = .next (s.completeLoad n) := by
  refine congrArg Host.Outcome.next ((whenRunning_of s _ running).trans ?_)
  simp only [phase, if_pos remote]

/-- Settles O44: the pass is applied with no machine withheld, and the choice of R49 leaves all but the solver. -/
theorem loadSolveCompletes : Obligations.LoadSolveCompletes := by
  intro s n running remote phase
  let pass := n.loading none
  let x := s.applyLoading pass (fun _ => false)
  have once := setpoints_once n none
  have loads : s.Loads x pass.deviation (pass.setpoints.filter (s.sends fun _ => false)) :=
    applyLoading_loads s pass _ once
  have sent : s.sends (fun _ => false)
      = fun p => decide ((s.tracker p.unit).state = p.state ∧ (s.tracker p.unit).lastSent ≠ some p.value) := by
    funext p
    simp [State.sends]
  have frame : Unchanged [.solver] x (s.completeLoad n) := frame_chooseNextSolve x false
  have trackers : (s.completeLoad n).trackers = x.trackers := frame .trackers (by decide)
  have tracker (u : UnitId) : (s.completeLoad n).tracker u = x.tracker u := congrArg (fun r => r.get u) trackers
  have errors := frame .errors (by decide)
  have port := frame .port (by decide)
  refine ⟨_, exec_loadSolveComplete s n running remote phase, ?_, setpoints_ascending n none,
    (frame .line (by decide)).trans (sent ▸ loads.line), fun u => ?_, fun p hp stands => ?_, fun u moved => ?_,
    fun past place => (loads.records past place).congr rfl rfl rfl errors port,
    fun within => (loads.quiet within).imp errors.trans port.trans, (loads.unchanged.seq frame).mono (by decide)⟩
  · rw [trackers]
    exact chooseNextSolve_congr loads.sees false
  · rw [tracker, loads.tracker]
  · rw [tracker, loads.lastSent once p hp stands]
  · rw [tracker, loads.others u fun p hp same => ?_]
    obtain ⟨member, sends⟩ := List.mem_filter.1 hp
    exact moved p member same (by rw [← same]; exact (of_decide_eq_true sends).2.1)

end Sys2Proof.Machine
end

section
/-! PROOFS. The completion of a full solve: the plan diff with its actions, the walk behind it, the rows of the last
plan, and what the completion leaves (R49, R57 to R62, R69, R70, R75; log entry 8). -/
namespace Sys2Proof.Machine

/-! ## The plan diff over the machines (R59 to R61) -/

theorem frame_diffStop (s : State) (u : UnitId) : Unchanged [.line, .trackers, .queue] s (s.diffStop u).1 :=
  (frame_queueStop s u).seq (frame_moveTracker _ _ _ _ _)

theorem frame_placeEntry (s : State) (u : UnitId) (k : EntryKind) : Unchanged [.queue] s (s.placeEntry u k).1 := by
  unfold State.placeEntry
  split
  · split
    · exact .refl _ s
    · exact (frame_withdrawEntry s u).trans (frame_setQueue _ _)
  · exact frame_setQueue s _

theorem frame_diffWithdraw (s : State) (u : UnitId) : Unchanged [.queue] s (s.diffWithdraw u).1 := by
  rw [diffWithdraw_eq]
  exact frame_setQueue s _

/-- The blocks that the plan diff may change. -/
abbrev diffBlocks : List Block := [.line, .trackers, .queue]

theorem frame_diffAct (s : State) (n : Snapshot) (u : UnitId) (k : Cls) :
    Unchanged diffBlocks s (s.diffAct n u k).1 := by
  have place (e : EntryKind) : Unchanged diffBlocks s (s.placeEntry u e).1 :=
    (frame_placeEntry s u e).mono (by decide)
  have withdraw : Unchanged diffBlocks s (s.diffWithdraw u).1 := (frame_diffWithdraw s u).mono (by decide)
  have stop : Unchanged diffBlocks s (s.diffStop u).1 := frame_diffStop s u
  have stay : Unchanged diffBlocks s s := .refl _ s
  cases k with
  | off =>
    simp only [State.diffAct]
    split
    · exact withdraw
    · split
      · exact stop
      · exact stay
  | gen =>
    simp only [State.diffAct]
    split
    · exact place _
    · split
      · split
        · exact place _
        · exact stop
      · split
        · exact withdraw
        · exact stay
  | pump =>
    simp only [State.diffAct]
    split
    · exact place _
    · split
      · exact stop
      · split
        · exact withdraw
        · exact stay

theorem frame_diffUnit (s : State) (n : Snapshot) (desired : UnitId → Cls) (u : UnitId) :
    Unchanged diffBlocks s (s.diffUnit n desired u).1 := by
  unfold State.diffUnit
  split
  · exact .refl _ s
  · exact frame_diffAct s n u _

theorem diffAll_fst (n : Snapshot) (desired : UnitId → Cls) (l : List UnitId) : ∀ s : State,
    (State.diffAll n desired l s).1 = l.foldl (fun x v => (x.diffUnit n desired v).1) s := by
  induction l with
  | nil => exact fun _ => rfl
  | cons u rest ih => exact fun s => ih _

theorem diffAll_units (n : Snapshot) (desired : UnitId → Cls) (l : List UnitId) : ∀ s : State,
    (State.diffAll n desired l s).2.map Prod.fst = l := by
  induction l with
  | nil => exact fun _ => rfl
  | cons u rest ih => exact fun s => congrArg (u :: ·) (ih _)

/-- A machine's action is the one that the diff takes on what the machines before it left. -/
theorem actionOf_diffAll (n : Snapshot) (desired : UnitId → Cls) (u : UnitId) (l : List UnitId) (h : u ∈ l) :
    ∀ s : State, actionOf (State.diffAll n desired l s).2 u
      = (((l.takeWhile (fun v => v != u)).foldl (fun x v => (x.diffUnit n desired v).1) s).diffUnit n desired u).2 := by
  induction l with
  | nil => cases h
  | cons v rest ih =>
    intro s
    by_cases first : v = u
    · subst first
      simp [State.diffAll, actionOf]
    · have later := ih ((List.mem_cons.1 h).resolve_left (Ne.symm first)) (s.diffUnit n desired v).1
      have skips : actionOf (State.diffAll n desired (v :: rest) s).2 u
          = actionOf (State.diffAll n desired rest (s.diffUnit n desired v).1).2 u := by
        simp [State.diffAll, actionOf, first]
      rw [skips, later, List.takeWhile_cons_of_pos (by simpa using first), List.foldl_cons]

/-- Where each machine has one action, the actions taken are those of the machines. -/
theorem actionOf_mem_iff (acts : List (UnitId × DiffAction)) (once : (acts.map Prod.fst).Nodup) (u : UnitId)
    (a : DiffAction) (h : u ∈ acts.map Prod.fst) : (u, a) ∈ acts ↔ actionOf acts u = a := by
  obtain ⟨⟨v, b⟩, taken, rfl⟩ := List.mem_map.1 h
  have found : actionOf acts v = b := by
    unfold actionOf
    cases first : acts.find? (fun p => p.1 == v) with
    | none => exact absurd (List.find?_eq_none.1 first (v, b) taken) (by simp)
    | some p =>
      have same : p.1 = v := by simpa using List.find?_some first
      rw [List.inj_on_of_nodup_map once (List.mem_of_find?_eq_some first) taken same]
  rw [found]
  constructor
  · exact fun member => congrArg Prod.snd (List.inj_on_of_nodup_map once taken member rfl)
  · exact fun same => same ▸ taken

/-! ## The order of the diff and its actions, in the statement's words (R60, R61) -/

/-- The class a full solve desires of a machine (R57). -/
abbrev Snapshot.desiredClass (n : Snapshot) (u : UnitId) : Cls := (n.desired n.commit u).1

/-- The machines added, in their order, and then the rest ascending (R60). -/
def Snapshot.planOrder (n : Snapshot) : List UnitId := n.commit.added.map (fun p => p.unit)
  ++ allUnits.filter (fun u => n.commit.added.all (fun p => p.unit != u))

theorem planOrder_eq (n : Snapshot) : diffOrder n.commit.added = n.planOrder := by
  simp only [diffOrder, Snapshot.planOrder, inSet, List.not_any_eq_all_not, bne]

theorem added_once (n : Snapshot) : (n.commit.added.map (fun p => p.unit)).Nodup := by
  have placed := units_nodup_of_inTurn n _ (commit_inTurn n)
  rw [List.map_append] at placed
  exact placed.of_append_right

theorem planOrder_once (n : Snapshot) : n.planOrder.Nodup := by
  refine (added_once n).append (List.Nodup.filter _ (by decide)) fun u added rest => ?_
  obtain ⟨p, hp, rfl⟩ := List.mem_map.1 added
  simpa using List.all_eq_true.1 (List.mem_filter.1 rest).2 p hp

theorem mem_planOrder (n : Snapshot) (u : UnitId) : u ∈ n.planOrder := by
  by_cases added : ∃ p ∈ n.commit.added, p.unit = u
  · exact List.mem_append_left _ (List.mem_map.2 added)
  · refine List.mem_append_right _ (List.mem_filter.2 ⟨mem_allUnits u, List.all_eq_true.2 fun p hp => ?_⟩)
    simpa using fun same => added ⟨p, hp, same⟩

/-- What the plan diff leaves behind some machines. -/
def State.diffed (s : State) (n : Snapshot) (l : List UnitId) : State :=
  l.foldl (fun x v => (x.diffUnit n n.desiredClass v).1) s

/-- The action of the plan diff on a machine (R60, R61). -/
def State.planAction (s : State) (n : Snapshot) (u : UnitId) : DiffAction :=
  ((s.diffed n (n.planOrder.takeWhile (fun v => v != u))).diffUnit n n.desiredClass u).2

theorem frame_diffed (s : State) (n : Snapshot) (l : List UnitId) : Unchanged diffBlocks s (s.diffed n l) :=
  frame_foldl _ (fun x u => frame_diffUnit x n n.desiredClass u) l s

/-- The actions of the plan diff, machine by machine. -/
def State.planActs (s : State) (n : Snapshot) : List (UnitId × DiffAction) :=
  (State.diffAll n n.desiredClass (diffOrder n.commit.added) s).2

theorem planActs_units (s : State) (n : Snapshot) : (s.planActs n).map Prod.fst = n.planOrder := by
  rw [State.planActs, diffAll_units, planOrder_eq]

theorem actionOf_planActs (s : State) (n : Snapshot) (u : UnitId) : actionOf (s.planActs n) u = s.planAction n u := by
  rw [State.planActs, planOrder_eq]
  exact actionOf_diffAll n n.desiredClass u _ (mem_planOrder n u) s

theorem placesEntry_iff (a : DiffAction) :
    a.placesEntry = true ↔ a ∈ [DiffAction.startGen, .startPump, .changeover, .keep] := by
  cases a <;> decide

/-- The diff placed or kept an entry when its action on some machine did (R61). -/
theorem planActs_place_iff (s : State) (n : Snapshot) : (s.planActs n).any (fun p => p.2.placesEntry) = true
    ↔ ∃ u, s.planAction n u ∈ [DiffAction.startGen, .startPump, .changeover, .keep] := by
  have taken (u : UnitId) (a : DiffAction) : (u, a) ∈ s.planActs n ↔ s.planAction n u = a := by
    rw [← actionOf_planActs]
    exact actionOf_mem_iff _ (planActs_units s n ▸ planOrder_once n) u a (planActs_units s n ▸ mem_planOrder n u)
  simp only [List.any_eq_true, placesEntry_iff]
  constructor
  · rintro ⟨⟨u, a⟩, member, places⟩
    exact ⟨u, (taken u a).1 member ▸ places⟩
  · rintro ⟨u, places⟩
    exact ⟨(u, _), (taken u _).2 rfl, places⟩

/-! ## The walk behind the diff (R61, R110) -/

theorem startEntry_solver (s : State) (e : Entry) : (s.startEntry e).solver = s.solver := by
  have taken := frame_withdrawEntry s e.unit
  unfold State.startEntry
  simp only
  split
  · exact ((taken.seq (frame_placeOrder _ _)).seq (frame_moveTracker _ _ _ _ _)) .solver (by decide)
  · exact ((taken.seq (frame_placeOrder _ _)).seq (frame_moveTracker _ _ _ _ _)) .solver (by decide)
  · split
    · exact ((taken.seq (frame_grant _ _ _)).seq (frame_moveTracker _ _ _ _ _)) .solver (by decide)
    · rfl

theorem walkLoop_solver (k : Nat) : ∀ s : State, (walkLoop k s).1.solver = s.solver := by
  induction k with
  | zero => exact fun _ => rfl
  | succ k ih =>
    intro s
    unfold walkLoop
    simp only
    split
    · rfl
    · exact (ih _).trans (startEntry_solver _ _)

/-- A walk hands no trigger over itself (log entry 8). -/
theorem admissionWalk_solver (s : State) : s.admissionWalk.1.solver = s.solver := by
  unfold State.admissionWalk
  split
  · exact walkLoop_solver _ s
  · rfl

/-- What the diff and the walk behind it leave, with the walk's starts (R61, steps 1 and 2). -/
def State.planWalk (s : State) (n : Snapshot) : State × Nat :=
  if (s.planActs n).any (fun p => p.2.placesEntry) then (s.diffed n n.planOrder).admissionWalk
  else (s.diffed n n.planOrder, 0)

theorem frame_planWalk (s : State) (n : Snapshot) : Unchanged walkBlocks s (s.planWalk n).1 := by
  have diffed : Unchanged walkBlocks s (s.diffed n n.planOrder) := (frame_diffed s n _).mono (by decide)
  unfold State.planWalk
  split
  · exact diffed.trans (frame_admissionWalk _)
  · exact diffed

theorem planWalk_solver (s : State) (n : Snapshot) : (s.planWalk n).1.solver = s.solver := by
  have diffed := frame_diffed s n n.planOrder .solver (by decide)
  unfold State.planWalk
  split
  · exact (admissionWalk_solver _).trans diffed
  · exact diffed

/-! ## The rows of the last plan (R57, R62) -/

theorem unitTable_get {β : Type} (f : UnitId → β) (u : UnitId) : (unitTable f).get u = f u := by
  match u with
  | 0 | 1 | 2 | 3 | 4 | 5 | 6 | 7 => rfl

theorem desired_pinned (n : Snapshot) (c : Commitment) (u : UnitId) (k : Cls) (h : n.pinnedClass u = some k) :
    n.desired c u = (k, .pinned) := by
  simp only [Snapshot.desired, h]

theorem desired_unavailable (n : Snapshot) (c : Commitment) (u : UnitId) (loose : n.pinnedClass u = none)
    (h : n.unavailable u = true) : n.desired c u = (.off, .unavailable) := by
  simp only [Snapshot.desired, loose, h, if_true]

theorem desired_added (n : Snapshot) (u : UnitId) (free : n.isFree u = true) (p : Placed)
    (hp : p ∈ n.commit.added) (is : p.unit = u) : n.desired n.commit u = (p.cls, p.basis) := by
  obtain ⟨loose, available⟩ := (isFree_iff n u).1 free
  have found : n.commit.added.find? (fun q => q.unit == u) = some p := by
    cases first : n.commit.added.find? (fun q => q.unit == u) with
    | none => exact absurd (List.find?_eq_none.1 first p hp) (by simp [is])
    | some q =>
      have same : q.unit = p.unit := by simpa [is] using List.find?_some first
      rw [List.inj_on_of_nodup_map (added_once n) (List.mem_of_find?_eq_some first) hp same]
  simp [Snapshot.desired, loose, available, found]

theorem desired_off (n : Snapshot) (u : UnitId) (free : n.isFree u = true)
    (out : ∀ p ∈ n.commit.added, p.unit ≠ u) :
    n.desired n.commit u = (.off, if u ∈ n.commit.removed then .removed else .notAdded) := by
  obtain ⟨loose, available⟩ := (isFree_iff n u).1 free
  have missing : n.commit.added.find? (fun q => q.unit == u) = none :=
    List.find?_eq_none.2 fun p hp => by simpa using out p hp
  by_cases removed : u ∈ n.commit.removed <;> simp [Snapshot.desired, loose, available, missing, removed]

/-! ## What follows the completion keeps the last plan (R49) -/

theorem discardSolve_plan (s : State) : s.discardSolve.solver.plan = s.solver.plan := by
  unfold State.discardSolve
  split <;> rfl

theorem fullTrigger_plan (s : State) (src : TriggerSource) : (s.fullTrigger src).solver.plan = s.solver.plan := by
  unfold State.fullTrigger State.takeFullTrigger
  split
  · split
    · rfl
    · split
      · rfl
      · split
        · rfl
        · exact discardSolve_plan s
  · rfl

theorem actOnLatches_plan (s : State) : s.actOnLatches.solver.plan = s.solver.plan := by
  unfold State.actOnLatches
  split
  · rfl
  · split <;> rfl

theorem chooseNextSolve_plan (s : State) (absorbed : Bool) :
    (s.chooseNextSolve absorbed).solver.plan = s.solver.plan := by
  unfold State.chooseNextSolve
  split
  · exact actOnLatches_plan s
  · split <;> rfl

theorem fullTriggers_eq (src : TriggerSource) (k : Nat) : ∀ s : State,
    State.fullTriggers src k s = (fun y : State => y.fullTrigger src)^[k] s := by
  induction k with
  | zero => exact fun _ => rfl
  | succ k ih => exact fun s => ih _

theorem fullTriggers_plan (src : TriggerSource) (k : Nat) : ∀ s : State,
    (State.fullTriggers src k s).solver.plan = s.solver.plan := by
  induction k with
  | zero => exact fun _ => rfl
  | succ k ih => exact fun s => (ih _).trans (fullTrigger_plan s src)

/-! ## FULL_SOLVE_COMPLETE (R61) -/

/-- The diff withholds a machine's setpoint: it left the machine out or stopped it (R75). -/
def State.withholds (s : State) (n : Snapshot) (u : UnitId) : Bool :=
  actionOf (s.planActs n) u == .leftOut || actionOf (s.planActs n) u == .stop

/-- The part after steps 1 to 4 of the completion (R61): the diff and its walk, the loading pass, the last plan. -/
def State.planned (s : State) (n : Snapshot) : State :=
  let x := (s.planWalk n).1.applyLoading (n.loading (some n.desiredClass)) (s.withholds n)
  x.setSolver { x.solver with
    plan := planOf n n.commit (s.planActs n) s.now, completed := satInc x.solver.completed }

theorem applyPlan_eq (s : State) (n : Snapshot) : s.applyPlan n = (s.planned n, (s.planWalk n).2) := by
  have diffed : (State.diffAll n n.desiredClass (diffOrder n.commit.added) s).1 = s.diffed n n.planOrder := by
    rw [diffAll_fst, planOrder_eq]
    rfl
  unfold State.planned State.planWalk
  rw [← diffed]
  rfl

/-- A setpoint is sent when the diff neither left its machine out nor stopped it, and the machine it is for takes
it (R75). -/
theorem planned_sends (s w : State) (n : Snapshot) :
    w.sends (s.withholds n) = fun p => decide (s.planAction n p.unit ∉ [DiffAction.leftOut, .stop]
      ∧ (w.tracker p.unit).state = p.state ∧ (w.tracker p.unit).lastSent ≠ some p.value) := by
  funext p
  simp [State.sends, State.withholds, actionOf_planActs]

/-- What steps 1 to 4 of the completion leave. -/
theorem planned_loads (s : State) (n : Snapshot) : ∃ x : State,
    (s.planWalk n).1.Loads x (n.loading (some n.desiredClass)).deviation
        ((n.loading (some n.desiredClass)).setpoints.filter fun p => decide
          (s.planAction n p.unit ∉ [DiffAction.leftOut, .stop] ∧ ((s.planWalk n).1.tracker p.unit).state = p.state
            ∧ ((s.planWalk n).1.tracker p.unit).lastSent ≠ some p.value))
      ∧ s.planned n = x.setSolver { s.solver with
          plan := planOf n n.commit (s.planActs n) s.now, completed := satInc s.solver.completed
          deviation := (n.loading (some n.desiredClass)).deviation } := by
  have loads := applyLoading_loads (s.planWalk n).1 (n.loading (some n.desiredClass)) (s.withholds n)
    (setpoints_once n _)
  refine ⟨_, planned_sends s _ n ▸ loads, ?_⟩
  rw [State.planned, loads.solver, planWalk_solver]

theorem exec_fullSolveComplete (s : State) (n : Snapshot) (running : s.processing ≠ .deviceReset)
    (remote : s.isRemote = true) (phase : s.solver.phase = .full n) :
    exec .fullSolveComplete s = .next (s.completeFull n) := by
  refine congrArg Host.Outcome.next ((whenRunning_of s _ running).trans ?_)
  simp only [phase, if_pos remote]

theorem completeFull_eq (s : State) (n : Snapshot) : s.completeFull n = State.fullTriggers .availability
    (s.planWalk n).2 ((s.planned n).chooseNextSolve (decide ((s.planned n).target.te ≠ n.te))) := by
  have te : ((s.planned n).target.te != n.te) = decide ((s.planned n).target.te ≠ n.te) := by
    simp [bne, Bool.beq_eq_decide_eq]
  rw [← te, State.completeFull, applyPlan_eq]

/-- Two states that differ in the solver alone are one with the same solver. -/
theorem setSolver_of_unchanged {y t : State} (h : Unchanged [.solver] y t) : t.setSolver y.solver = y := by
  have blocks (b : Block) (hb : b ∉ [Block.solver]) := h b hb
  have settings : t.settings = y.settings := blocks .settings (by decide)
  have table : t.table = y.table := blocks .table (by decide)
  have target : t.target = y.target := blocks .target (by decide)
  have trackers : t.trackers = y.trackers := blocks .trackers (by decide)
  have queue : t.queue = y.queue := blocks .queue (by decide)
  have convs : t.convs = y.convs := blocks .convs (by decide)
  have line : t.line = y.line := blocks .line (by decide)
  have classes : t.classes = y.classes := blocks .classes (by decide)
  have port : t.port = y.port := blocks .port (by decide)
  have inputs : t.inputs = y.inputs := blocks .inputs (by decide)
  have errors : t.errors = y.errors := blocks .errors (by decide)
  have processing : t.processing = y.processing := blocks .processing (by decide)
  have awaiting : t.resetAwaiting = y.resetAwaiting := blocks .resetAwaiting (by decide)
  have pending : t.pending = y.pending := blocks .pending (by decide)
  simp only [State.setSolver, settings, table, target, trackers, queue, convs, line, classes, port, inputs, errors,
    processing, awaiting, pending]

/-- Settles O43: steps 1 to 4 of the completion, of which the choice of R49 and the starts' triggers change the solver
alone and keep the last plan. -/
theorem fullSolveCompletes : Obligations.FullSolveCompletes := by
  intro s n running remote phase
  dsimp only
  let w := (s.planWalk n).1
  let y := s.planned n
  let t := s.completeFull n
  obtain ⟨x, loads, planned⟩ := planned_loads s n
  have walked : Unchanged walkBlocks s w := frame_planWalk s n
  have chosen : Unchanged [.solver] (s.planned n) (s.completeFull n) := by
    rw [completeFull_eq]
    exact (frame_chooseNextSolve _ _).trans (frame_fullTriggers _ _ _)
  have stored : Unchanged [.solver] x (s.planned n) := by
    rw [planned]
    exact frame_setSolver x _
  have frame : Unchanged [.solver] x t := stored.trans chosen
  have tracker (u : UnitId) : t.tracker u = x.tracker u :=
    congrArg (fun r => r.get u) (frame .trackers (by decide))
  have errors : w.errors = s.errors := walked .errors (by decide)
  have port : w.port = s.port := walked .port (by decide)
  have settings : w.settings = s.settings := walked .settings (by decide)
  have solver : y.solver = { s.solver with
      plan := planOf n n.commit (s.planActs n) s.now, completed := satInc s.solver.completed
      deviation := (n.loading (some n.desiredClass)).deviation } := congrArg State.solver planned
  have plan : t.solver.plan = planOf n n.commit (s.planActs n) s.now := by
    have kept : t.solver.plan = y.solver.plan := by
      rw [show t = _ from completeFull_eq s n, fullTriggers_plan, chooseNextSolve_plan]
    rw [kept, solver]
  have row (u : UnitId) : t.solver.plan.rows.get u
      = ⟨(n.desired n.commit u).1, (n.desired n.commit u).2, s.planAction n u⟩ := by
    rw [plan, ← actionOf_planActs]
    exact unitTable_get _ u
  refine ⟨t, w, (s.planWalk n).2, exec_fullSolveComplete s n running remote phase, fun places => ?places,
    fun bare => ?bare, ⟨(frame .line (by decide)).trans loads.line, fun p hp => (tracker _).trans (loads.told p hp),
      fun u hu => (tracker u).trans (loads.others u hu)⟩,
    (frame .queue (by decide)).trans (loads.unchanged .queue (by decide)),
    (frame .convs (by decide)).trans (loads.unchanged .convs (by decide)), fun past place => ?records,
    fun within => ?quiet, ?_, ?_, ?_, ?_, ?_, ?_, ?_, fun u => ?row, ?solver,
    ((walked.seq loads.unchanged).seq frame).mono (by decide)⟩
  case places => exact if_pos ((planActs_place_iff s n).2 places)
  case bare =>
    have nowhere : ¬ (s.planActs n).any (fun p => p.2.placesEntry) = true :=
      fun placed => ((planActs_place_iff s n).1 placed).elim bare
    have stays : s.planWalk n = (s.diffed n n.planOrder, 0) := if_neg nowhere
    exact ⟨congrArg Prod.fst stays, congrArg Prod.snd stays⟩
  case records =>
    rw [← settings] at past
    have placed : w.ownHasPlace := by rwa [State.ownHasPlace, port]
    exact (loads.records past placed).congr errors.symm port.symm settings.symm (frame .errors (by decide))
      (frame .port (by decide))
  case quiet =>
    rw [← settings] at within
    obtain ⟨quiet, still⟩ := loads.quiet within
    exact ⟨((frame .errors (by decide)).trans quiet).trans errors, ((frame .port (by decide)).trans still).trans port⟩
  case row =>
    rw [row u]
    refine ⟨rfl, rfl, fun k pinned => ?_, fun loose away => ?_, fun free p hp is => ?_, fun free out => ?_⟩
    · rw [desired_pinned n _ u k pinned]
      exact ⟨rfl, rfl⟩
    · rw [desired_unavailable n _ u loose away]
      exact ⟨rfl, rfl⟩
    · rw [desired_added n u free p hp is]
      exact ⟨rfl, rfl⟩
    · rw [desired_off n u free out]
      exact ⟨rfl, rfl⟩
  case solver =>
    have te : y.target.te = s.target.te := by
      have target : y.target = s.target := (chosen .target (by decide)).symm.trans
        (((walked.seq loads.unchanged).seq frame) .target (by decide))
      rw [target]
    have before : t.setSolver y.solver = y := setSolver_of_unchanged chosen
    rw [plan, ← solver, before, ← te, ← fullTriggers_eq, ← completeFull_eq]
  all_goals rw [plan]; rfl

end Sys2Proof.Machine
end

section
/-! PROOFS. The loading pass: the steady set, the power given outside it and the setpoints, each in the statement's own
words, and the share-out (R66 to R69, R71 to R73). The share-out keeps the contributions within their bands because a
share falls short of its exact value by less than one step, and by nothing where the machine has no width. -/
namespace Sys2Proof.Machine

/-! ## Who is loaded (R66, R67) -/

theorem steadyClass_eq_some_iff (t : TState) (k : Cls) :
    t.steadyClass = some k ↔ t = .gen ∧ k = .gen ∨ t = .pump ∧ k = .pump := by
  cases t <;> simp [TState.steadyClass, eq_comm]

theorem loadedAs_eq_some_iff (n : Snapshot) (desired : Option (UnitId → Cls)) (u : UnitId) (m : Loaded) :
    n.loadedAs desired u = some m ↔ m.unit = u ∧ ∃ r, n.unit u = some r
      ∧ (n.tracker u).state.steadyClass = some m.cls ∧ (∀ d, desired = some d → d u = m.cls)
      ∧ m.band = r.band n.head m.cls := by
  obtain ⟨v, k, b⟩ := m
  unfold Snapshot.loadedAs
  split
  next k' r steady record =>
    rw [Option.ite_none_right_eq_some, Option.all_eq_true]
    simp only [steady, record, Option.some.injEq, Loaded.mk.injEq, beq_iff_eq, exists_eq_left']
    constructor
    · rintro ⟨wanted, rfl, rfl, rfl⟩
      exact ⟨rfl, rfl, wanted, rfl⟩
    · rintro ⟨rfl, rfl, wanted, rfl⟩
      exact ⟨wanted, rfl, rfl, rfl⟩
  next missing =>
    refine ⟨fun h => (Option.some_ne_none _ h.symm).elim, ?_⟩
    rintro ⟨-, r, record, steady, -⟩
    exact (missing k r steady record).elim

theorem mem_steadySet_iff (n : Snapshot) (desired : Option (UnitId → Cls)) (m : Loaded) :
    m ∈ n.steadySet desired ↔ n.loadedAs desired m.unit = some m := by
  rw [Snapshot.steadySet, List.mem_filterMap]
  refine ⟨?_, fun loaded => ⟨m.unit, mem_allUnits m.unit, loaded⟩⟩
  rintro ⟨u, -, loaded⟩
  rwa [loadedAs_unit loaded]

theorem steadySet_ascending (n : Snapshot) (desired : Option (UnitId → Cls)) :
    ((n.steadySet desired).map (fun m => m.unit)).Pairwise (· < ·) :=
  pairwise_filterMap (n.loadedAs desired) id _ (fun _ _ h => loadedAs_unit h) allUnits (by decide)

theorem loadedAs_eq_none_iff (n : Snapshot) (desired : Option (UnitId → Cls)) (u : UnitId) :
    n.loadedAs desired u = none ↔ ∀ m ∈ n.steadySet desired, m.unit ≠ u := by
  rw [Option.eq_none_iff_forall_ne_some]
  constructor
  · rintro out m hm rfl
    exact out m ((mem_steadySet_iff n desired m).1 hm)
  · intro out m loaded
    have is : m.unit = u := loadedAs_unit loaded
    exact out m ((mem_steadySet_iff n desired m).2 (is ▸ loaded)) is

theorem outsidePower_eq_sum (n : Snapshot) (desired : Option (UnitId → Cls)) :
    n.outsidePower desired = (allUnits.map fun u => if (∀ m ∈ n.steadySet desired, m.unit ≠ u)
      ∧ (n.tracker u).valid = true ∧ (n.tracker u).state ≠ .unknown ∧ (n.tracker u).state ≠ .lost
        then (n.tracker u).power else 0).sum := by
  rw [Snapshot.outsidePower, List.sum_eq_foldl, List.foldl_map]
  congr 1
  funext acc u
  congr 1
  simp only [← loadedAs_eq_none_iff]
  cases n.loadedAs desired u with
  | none => simp [TrackerSnap.counted, and_assoc]
  | some m => simp

/-! ## The setpoints of contributions (R73) -/

theorem setpointOf_eq_some_iff (kind : UnitKind) (k : Cls) (c : Int) (v : Nat) :
    setpointOf kind k c = some v
      ↔ k = .gen ∧ v = c.toNat ∨ k = .pump ∧ kind = .variableSpeed ∧ v = (-c).toNat := by
  cases k <;> cases kind <;> simp [setpointOf, eq_comm]

theorem setpointFor_eq_some_iff (n : Snapshot) (m : Loaded) (c : Int) (p : Setpoint) :
    n.setpointFor (m, c) = some p ↔ ∃ r, n.unit m.unit = some r ∧ p.unit = m.unit
      ∧ p.state = (n.tracker m.unit).state ∧ setpointOf r.kind m.cls c = some p.value := by
  obtain ⟨u, state, value⟩ := p
  unfold Snapshot.setpointFor
  split
  next missing => simp [missing]
  next r record => simp [record, eq_comm, and_left_comm, and_comm]

theorem loading_eq (n : Snapshot) (desired : Option (UnitId → Cls))
    (order : loOfLoaded (n.steadySet desired) ≤ hiOfLoaded (n.steadySet desired)) :
    let l := n.steadySet desired
    let residual := n.te - n.outsidePower desired
    let rc := max (loOfLoaded l) (min (hiOfLoaded l) residual)
    n.loading desired = ⟨residual - rc, (contributions l rc).filterMap n.setpointFor⟩ := by
  rw [Snapshot.loading, clampInt_eq _ _ _ order]

/-! ## The sums of the share-out (R68, R71) -/

theorem loOfLoaded_eq_sum (l : List Loaded) : loOfLoaded l = (l.map fun m => m.band.lo).sum := by
  rw [loOfLoaded, List.sum_eq_foldl, List.foldl_map]

theorem hiOfLoaded_eq_sum (l : List Loaded) : hiOfLoaded l = (l.map fun m => m.band.hi).sum := by
  rw [hiOfLoaded, List.sum_eq_foldl, List.foldl_map]

theorem shareSum_eq_sum (x span : Int) (l : List Loaded) : shareSum x span l = (l.map (shareOf x span)).sum := by
  rw [shareSum, List.sum_eq_foldl, List.foldl_map]

theorem spanOf_eq_sum (l : List Loaded) : spanOf l = (l.map fun m => m.band.width).sum := by
  rw [spanOf, hiOfLoaded_eq_sum, loOfLoaded_eq_sum, sub_eq_iff_eq_add', ← List.sum_map_add]
  simp [Band.width]

/-- The machines that a remainder can reach: those of nonzero width (R72). -/
def wideCount (l : List Loaded) : Nat := l.countP fun m => decide (0 < m.band.width)

theorem wideCount_cons (m : Loaded) (l : List Loaded) :
    wideCount (m :: l) = wideCount l + if 0 < m.band.width then 1 else 0 := by
  simp [wideCount, List.countP_cons]

/-! ## The remainder handed out (R72) -/

/-- The first machine takes a step where it has width and the remainder is not spent; the rest get what is left. -/
theorem handOut_cons (x span : Int) (r : Nat) (m : Loaded) (l : List Loaded) :
    handOut x span r (m :: l)
      = (m, m.band.lo + shareOf x span m + if 0 < m.band.width ∧ 0 < r then 1 else 0)
        :: handOut x span (if 0 < m.band.width then r - 1 else r) l := by
  cases r with
  | zero => simp [handOut]
  | succ k => by_cases wide : 0 < m.band.width <;> simp [handOut, wide]

theorem stepAt_zero (r : Nat) (m : Loaded) (l : List Loaded) :
    stepAt r (m :: l) 0 = if 0 < m.band.width ∧ 0 < r then 1 else 0 :=
  rfl

theorem stepAt_succ (r : Nat) (m : Loaded) (l : List Loaded) (i : Nat) :
    stepAt r (m :: l) (i + 1) = stepAt (if 0 < m.band.width then r - 1 else r) l i := by
  by_cases wide : 0 < m.band.width
  · simp [stepAt, wide, Nat.lt_sub_iff_add_lt]
  · simp [stepAt, wide]

/-- A place receives no step, or one where its machine has width and there is a remainder. -/
theorem stepAt_cases (r : Nat) (l : List Loaded) (i : Nat) (m : Loaded) (at_i : l[i]? = some m) :
    stepAt r l i = 0 ∨ stepAt r l i = 1 ∧ 0 < m.band.width ∧ 0 < r := by
  simp only [stepAt, at_i]
  split
  next reached => exact .inr ⟨rfl, reached.1, Nat.zero_lt_of_lt reached.2⟩
  next => exact .inl rfl

theorem handOut_getElem? (x span : Int) (l : List Loaded) : ∀ (r i : Nat),
    (handOut x span r l)[i]?
      = l[i]?.map fun m => (m, m.band.lo + shareOf x span m + stepAt r l i) := by
  induction l with
  | nil => exact fun _ _ => rfl
  | cons m l ih =>
    intro r i
    rw [handOut_cons]
    cases i with
    | zero => simp [stepAt_zero]
    | succ i => simp [stepAt_succ, ih]

theorem handOut_place {x span : Int} {l : List Loaded} {r i : Nat} {m : Loaded} {c : Int}
    (h : (handOut x span r l)[i]? = some (m, c)) :
    l[i]? = some m ∧ c = m.band.lo + shareOf x span m + stepAt r l i := by
  rw [handOut_getElem?, Option.map_eq_some_iff] at h
  obtain ⟨k, place, is⟩ := h
  cases is
  exact ⟨place, rfl⟩

/-- A remainder that the machines of nonzero width can take is handed out in full. -/
theorem handOut_sum (x span : Int) (l : List Loaded) : ∀ r ≤ wideCount l,
    ((handOut x span r l).map Prod.snd).sum
      = (l.map fun m => m.band.lo).sum + (l.map (shareOf x span)).sum + r := by
  induction l with
  | nil => simp [wideCount, handOut]
  | cons m l ih =>
    intro r fits
    rw [wideCount_cons] at fits
    have rest := ih (if 0 < m.band.width then r - 1 else r) (by split <;> simp_all)
    simp only [handOut_cons, List.map_cons, List.sum_cons, rest]
    split <;> split <;> omega

/-! ## Shares and their remainder (R71, R72) -/

/-- A share is floored: its exact value lies above it by less than one step, and not at all without width. -/
theorem shareOf_floor {x span : Int} (m : Loaded) (ordered : 0 ≤ m.band.width) (positive : 0 < span) :
    span * shareOf x span m ≤ x * m.band.width
      ∧ x * m.band.width ≤ span * (shareOf x span m + if 0 < m.band.width then 1 else 0) := by
  rw [shareOf, if_neg positive.ne']
  refine ⟨Int.mul_ediv_self_le positive.ne', ?_⟩
  split
  next => exact (Int.lt_mul_ediv_self_add positive).le.trans_eq (mul_add_one _ _).symm
  next narrow => simp [le_antisymm (not_lt.1 narrow) ordered]

theorem shareSum_floor {x span : Int} (l : List Loaded) (ordered : ∀ m ∈ l, 0 ≤ m.band.width)
    (positive : 0 < span) :
    span * (l.map (shareOf x span)).sum ≤ x * (l.map fun m => m.band.width).sum
      ∧ x * (l.map fun m => m.band.width).sum ≤ span * ((l.map (shareOf x span)).sum + wideCount l) := by
  induction l with
  | nil => simp [wideCount]
  | cons m l ih =>
    obtain ⟨lower, upper⟩ := shareOf_floor (x := x) m (ordered m List.mem_cons_self) positive
    obtain ⟨lowerRest, upperRest⟩ := ih fun k hk => ordered k (List.mem_cons_of_mem m hk)
    simp only [List.map_cons, List.sum_cons, wideCount_cons]
    push_cast
    constructor <;> linarith

/-- At the upper end each share is the whole width. -/
theorem shareOf_full {span : Int} (m : Loaded) (positive : 0 < span) : shareOf span span m = m.band.width := by
  rw [shareOf, if_neg positive.ne', Int.mul_ediv_cancel_left _ positive.ne']

/-- The remainder lies within the machines of nonzero width, and there is none at the upper end. -/
theorem remainder_bounds {x : Int} (l : List Loaded) (ordered : ∀ m ∈ l, 0 ≤ m.band.width) (least : 0 ≤ x)
    (most : x ≤ spanOf l) :
    0 ≤ x - shareSum x (spanOf l) l ∧ x - shareSum x (spanOf l) l ≤ wideCount l
      ∧ (0 < x - shareSum x (spanOf l) l → x < spanOf l) := by
  rw [shareSum_eq_sum]
  rcases (least.trans most).eq_or_lt with zero | positive
  · have nothing : x = 0 := by omega
    have shares : shareOf 0 0 = fun _ => 0 := funext fun _ => if_pos rfl
    simp [nothing, ← zero, shares]
  · obtain ⟨lower, upper⟩ := shareSum_floor (x := x) l ordered positive
    rw [← spanOf_eq_sum, mul_comm x] at lower upper
    have enough := le_of_mul_le_mul_left lower positive
    have few := le_of_mul_le_mul_left upper positive
    refine ⟨by omega, by omega, fun left => most.lt_of_ne fun full => ?_⟩
    have whole : (l.map (shareOf x (spanOf l))).sum = spanOf l := by
      rw [full, List.map_congr_left fun m _ => shareOf_full m positive, ← spanOf_eq_sum]
    omega

/-- A share stays within its machine's width, and one step short of it where X lies below Span and there is width. -/
theorem shareOf_bounds {x span : Int} (m : Loaded) (ordered : 0 ≤ m.band.width) (least : 0 ≤ x) (most : x ≤ span) :
    0 ≤ shareOf x span m ∧ shareOf x span m ≤ m.band.width
      ∧ (0 < m.band.width → x < span → shareOf x span m < m.band.width) := by
  rcases (least.trans most).eq_or_lt with zero | positive
  · have nothing : shareOf x span m = 0 := if_pos zero.symm
    omega
  · rw [shareOf, if_neg positive.ne']
    refine ⟨Int.ediv_nonneg (mul_nonneg least ordered) positive.le, ?_, fun wide below => ?_⟩
    · exact Int.ediv_le_of_le_mul positive (mul_comm x _ ▸ mul_le_mul_of_nonneg_left most ordered)
    · exact Int.ediv_lt_of_lt_mul positive (mul_comm x _ ▸ mul_lt_mul_of_pos_left below wide)

/-- Where a remainder is left only below the upper end, no step leads out of a band. -/
theorem handOut_within {x span : Int} {r : Nat} {l : List Loaded} (ordered : ∀ m ∈ l, 0 ≤ m.band.width)
    (least : 0 ≤ x) (most : x ≤ span) (below : 0 < r → x < span) (p : Loaded × Int) (hp : p ∈ handOut x span r l) :
    p.1.band.lo ≤ p.2 ∧ p.2 ≤ p.1.band.hi := by
  obtain ⟨m, c⟩ := p
  obtain ⟨i, place⟩ := List.mem_iff_getElem?.1 hp
  obtain ⟨at_i, rfl⟩ := handOut_place place
  obtain ⟨nonneg, fits, short⟩ := shareOf_bounds m (ordered m (List.mem_of_getElem? at_i)) least most
  have width : m.band.width = m.band.hi - m.band.lo := rfl
  dsimp only
  rcases stepAt_cases r l i m at_i with plain | ⟨one, wide, left⟩
  · omega
  · have room := short wide (below left)
    omega

/-! ## The contributions (R73) -/

section
variable {l : List Loaded} {rc : Int}

theorem contributions_sum (ordered : ∀ m ∈ l, 0 ≤ m.band.width) (least : loOfLoaded l ≤ rc)
    (most : rc ≤ hiOfLoaded l) : ((contributions l rc).map Prod.snd).sum = rc := by
  obtain ⟨nonneg, few, -⟩ := remainder_bounds l ordered (Int.sub_nonneg_of_le least) (sub_le_sub_right most _)
  rw [contributions, handOut_sum _ _ _ _ (Int.toNat_le.2 few), Int.toNat_of_nonneg nonneg, ← loOfLoaded_eq_sum,
    ← shareSum_eq_sum]
  omega

theorem contributions_within (ordered : ∀ m ∈ l, 0 ≤ m.band.width) (least : loOfLoaded l ≤ rc)
    (most : rc ≤ hiOfLoaded l) : ∀ p ∈ contributions l rc, p.1.band.lo ≤ p.2 ∧ p.2 ≤ p.1.band.hi := by
  have x_least := Int.sub_nonneg_of_le least
  have x_most : rc - loOfLoaded l ≤ spanOf l := sub_le_sub_right most _
  obtain ⟨-, -, below⟩ := remainder_bounds l ordered x_least x_most
  exact handOut_within ordered x_least x_most fun left => below (Int.pos_iff_toNat_pos.2 left)

end

/-- Settles O49: the pass by the lemmas on L, U_t and the setpoints; the share-out by the bounds on shares and
remainder. -/
theorem contributionsMeetTheResidual : Obligations.ContributionsMeetTheResidual := by
  refine ⟨fun n desired => ⟨steadySet_ascending n desired, fun m => ?steady, fun order => ?deviation,
    fun order p => ?setpoints⟩, fun l rc ordered least most => ?shareOut⟩
  case steady =>
    simp [mem_steadySet_iff, loadedAs_eq_some_iff, steadyClass_eq_some_iff, and_assoc]
  case deviation =>
    simp only [loading_eq n desired order, outsidePower_eq_sum]
  case setpoints =>
    simp only [loading_eq n desired order, outsidePower_eq_sum, List.mem_filterMap, Prod.exists,
      setpointFor_eq_some_iff, setpointOf_eq_some_iff, exists_and_left]
  case shareOut =>
    have widths (m) (hm : m ∈ l) : 0 ≤ m.band.width := sub_nonneg.2 (ordered m hm)
    refine ⟨handOut_fst _ _ l _, fun i m c place => ?_, contributions_sum widths least most,
      contributions_within widths least most⟩
    obtain ⟨-, value⟩ := handOut_place place
    rw [shareSum_eq_sum] at value
    exact value

end Sys2Proof.Machine
end

section
/-! PROOFS. The commands, one by one, keep the records of trackers, start queue and converters in agreement: so does
the step (R81, R103, R108, R116, R117). -/
namespace Sys2Proof.Machine

/-- A pin that ends is a pin that was held (R104). -/
theorem agree_pinEnd {s : State} (u : UnitId) (h : s.RecordsAgree) :
    (if (s.tracker u).pin = .pinned ∧ dueAt (s.tracker u).pinEnd s.now then s.endPin u else s).RecordsAgree := by
  split
  · rename_i due
    exact agree_endPin u (by rw [due.1]; nofun) h
  · exact h

/-- The completions of solves in flight (R61, R80). -/
theorem agree_completions {s : State} (h : s.RecordsAgree) :
    (match s.solver.phase with
      | .full n => if s.isRemote then s.completeFull n else s
      | _ => s).RecordsAgree
    ∧ (match s.solver.phase with
      | .load n => if s.isRemote then s.completeLoad n else s
      | _ => s).RecordsAgree := by
  cases s.solver.phase with
  | idle => exact ⟨h, h⟩
  | full n => exact ⟨agree_ite _ (agree_completeFull n h) h, h⟩
  | load n => exact ⟨h, agree_ite _ (agree_completeLoad n h) h⟩

theorem agree_rampDue {s : State} (h : s.RecordsAgree) :
    (match s.target.rampNext with
      | some e => if e ≤ s.now then s.takeRampStep e else s
      | none => s).RecordsAgree := by
  split
  · exact agree_ite _ (agree_frame (frame_loadTrigger _) (agree_frame (frame_setTarget s _) h)) h
  · exact h

theorem agree_resolveDue {s : State} (h : s.RecordsAgree) :
    (match s.solver.resolveNext with
      | some e => if e ≤ s.now then s.resolveExpiry e else s
      | none => s).RecordsAgree := by
  split
  · exact agree_ite _ (agree_frame (frame_fullTrigger _ _) (agree_frame (frame_setSolver s _) h)) h
  · exact h

/-- The ends of transmission on the unit line (R133, R137). -/
theorem agree_lineSent {s : State} (h : s.RecordsAgree) : s.lineSent.RecordsAgree := by
  unfold State.lineSent
  split
  · exact agree_frame (frame_lineFree s _) h
  · exact agree_frame (frame_lineFree s _) h
  · exact h

theorem agree_pollSent {s : State} (h : s.RecordsAgree) : s.pollSent.RecordsAgree := by
  unfold State.pollSent
  split
  · exact agree_frame (frame_setLine s _) h
  · exact h

theorem agree_cutAtLimit {s : State} (h : s.RecordsAgree) : s.cutAtLimit.RecordsAgree := by
  unfold State.cutAtLimit
  split
  · exact agree_lineReception none h
  · exact h

/-- Every command completes and leaves the records in agreement. -/
theorem agree_exec (c : Instr) {s : State} (h : s.RecordsAgree) : ∃ t, exec c s = .next t ∧ t.RecordsAgree := by
  cases c with
  | uFrameCheck b => exact ⟨_, rfl, agree_whenRunning _ (agree_receiveBytesU b) h⟩
  | frameClassify | target | hold | admission | head => exact ⟨_, rfl, agree_receiveOn _ _ h⟩
  | unitReport | converterReport | nilReply | replyWindowReception | strayReception =>
    exact ⟨_, rfl, agree_lineReception _ h⟩
  | receptionLimit => exact ⟨_, rfl, agree_cutAtLimit h⟩
  | receptionStart => exact ⟨_, rfl, agree_frame (frame_setLine s _) h⟩
  | replyWindowTimeout => exact ⟨_, rfl, agree_whenRunning _ agree_windowTimeout h⟩
  | unitLineTxEnd => exact ⟨_, rfl, agree_whenRunning _ agree_lineSent h⟩
  | pollTxEnd => exact ⟨_, rfl, agree_whenRunning _ agree_pollSent h⟩
  | dispatchTxEnd => exact ⟨_, rfl, agree_whenRunning _ agree_dispatchSent h⟩
  | rampStep => exact ⟨_, rfl, agree_whenRunning _ agree_rampDue h⟩
  | orderStale => exact ⟨_, rfl, agree_whenRunning _ (fun h => agree_ite _ (agree_staleOrderNow h) h) h⟩
  | headStale => exact ⟨_, rfl, agree_whenRunning _ (fun h => agree_ite _ (agree_staleHeadNow h) h) h⟩
  | resolveTimerExpiry => exact ⟨_, rfl, agree_whenRunning _ agree_resolveDue h⟩
  | statusTimerExpiry => exact ⟨_, rfl, agree_whenRunning _ (fun h => agree_ite _ (agree_statusExpiry h) h) h⟩
  | transitionDeadline u =>
    exact ⟨_, rfl, agree_whenRunning _ (fun h =>
      agree_ite _ (agree_walkAfter _ (agree_faultUnit u _ _ (by simp) h)) h) h⟩
  | pinEnd u => exact ⟨_, rfl, agree_whenRunning _ (agree_pinEnd u) h⟩
  | converterDeadline c =>
    exact ⟨_, rfl, agree_whenRunning _ (fun h => agree_ite _ (agree_walkAfter _ (agree_expireConv c h)) h) h⟩
  | fullSolveComplete => exact ⟨_, rfl, agree_whenRunning _ (fun h => (agree_completions h).1) h⟩
  | loadSolveComplete => exact ⟨_, rfl, agree_whenRunning _ (fun h => (agree_completions h).2) h⟩
  | engineResetEnd =>
    exact ⟨_, rfl, agree_ite _ (agree_frame (frame_actOnLatches _) (agree_frame (frame_setProcessing s _) h)) h⟩
  | lineResetEnd =>
    exact ⟨_, rfl, agree_whenRunning _ (fun h => agree_ite _ (agree_frame (frame_lineFree s _) h) h) h⟩
  | deviceResetEnd => exact ⟨_, rfl, agree_ite _ agree_deviceResetEnd h⟩
  | resetPin => exact ⟨_, rfl, agree_of_reset rfl rfl rfl rfl⟩
  | resetPinRelease | emergencyStopRelease | tripLineDeassert => exact ⟨_, rfl, agree_frame (frame_setInputs s _) h⟩
  | tripLineAssert u =>
    have level : (s.setTripLevel u true).RecordsAgree := agree_frame (frame_setInputs s _) h
    exact ⟨_, rfl, agree_whenRunning _ (fun h => agree_walkAfter _ (agree_assertTrip u h)) level⟩
  | emergencyStopEdge =>
    have level : (s.setEstopLevel true).RecordsAgree := agree_frame (frame_setInputs s _) h
    exact ⟨_, rfl, agree_whenRunning _ agree_assertEstop level⟩
  | localRemoteAssert | localRemoteDeassert => exact ⟨_, rfl, agree_onLocalLine _ h⟩
  | deviceTimeTick => exact ⟨_, rfl, agree_whenRunning _ (agree_frame (frame_setErrors s _)) h⟩
  | writeMerit which src req record =>
    cases which <;> exact ⟨_, rfl, agree_request src req _ _ _ record h⟩
  | read | writeSettings | writeUnit | writeGroup | writeClass | writeSeverity | writeNotice
  | clearCounters | clearCapture | clearFlags | clearLine | solveNow | unitFaultClear | converterClear
  | estopClear | authoritySet | scanStart | scanStop | scanStep | scanConfig | lineReset | engineReset
  | deviceReset => exact ⟨_, rfl, agree_request _ _ _ _ _ _ h⟩

/-- Settles O11: the command at the front keeps the agreement, which does not speak of the queue of commands; on an
empty queue only the unit line moves. -/
theorem stepKeepsRecordsAgree : Obligations.StepKeepsRecordsAgree := by
  intro s t h run
  unfold step at run
  split at run
  · rename_i c rest _
    obtain ⟨x, ran, agree⟩ := agree_exec c (agree_frame (frame_setPending s rest) h)
    exact Host.Outcome.next.inj (ran.symm.trans run) ▸ agree
  · exact Host.Outcome.next.inj run ▸ agree_frame (frame_lineChoose s) h

end Sys2Proof.Machine
end

section
/-! PROOFS. The rules on changes of trackers and converters: what a change reads and what operations behind it leave,
the release of a granted converter, the fault of a machine, the stop of one that a converter spins up (R85, R92 to
R96, R123 to R128). -/
namespace Sys2Proof.Machine

/-! ## What a change of a tracker reads (R40, R41, R85) -/

/-- What a change of a tracker reads is the same in two states. -/
structure TrackerSees (s t : State) : Prop where
  sees : SolverSees s t
  trackers : t.trackers = s.trackers

theorem TrackerSees.of_unchanged {s t : State} (h : Unchanged unseenBlocks s t) : TrackerSees s t :=
  ⟨.of_unchanged h, h .trackers (by decide)⟩

theorem TrackerSees.refl (s : State) : TrackerSees s s := .of_unchanged (Unchanged.refl _ s)

theorem TrackerSees.trans {s t x : State} (h : TrackerSees s t) (k : TrackerSees t x) : TrackerSees s x :=
  ⟨h.sees.trans k.sees, k.trackers.trans h.trackers⟩

theorem detectAt_trackerSees (s : State) (k : ErrorKind) (n : Nat) : TrackerSees s (s.detectAt k n) :=
  ⟨detectAt_sees s k n, frame_told s k n .trackers (by decide)⟩

theorem eq_setSolver_of_unchanged {s t : State} (h : Unchanged [.solver] s t) : t = s.setSolver t.solver :=
  calc t = (t.setSolver s.solver).setSolver t.solver := rfl
    _ = s.setSolver t.solver := by rw [setSolver_of_unchanged h]

/-- After a full trigger the same is read as before, but for the solver that it leaves (R46, R47). -/
theorem SolverSees.fullTrigger {s t : State} (h : SolverSees s t) (src : TriggerSource) :
    SolverSees (s.fullTrigger src) (t.fullTrigger src) := by
  rw [eq_setSolver_of_unchanged (frame_fullTrigger s src), eq_setSolver_of_unchanged (frame_fullTrigger t src),
    fullTrigger_congr h src]
  exact h.setSolver _

/-- With the same trackers and the same start queue put in, the same is read. -/
theorem SolverSees.moved {s t : State} (h : SolverSees s t) (x : Vector Tracker 8) (q : List Entry) :
    SolverSees ((s.setTrackers x).setQueue q) ((t.setTrackers x).setQueue q) :=
  ⟨h.solver, h.remote, h.settings, h.processing,
    congrArg (fun n : Snapshot => { n with trackers := mapUnits Tracker.snap x, queue := q }) h.snapshot⟩

/-- A change of a tracker is one from any state that it reads as the same. -/
theorem State.Enters.before {s t x : State} {u : UnitId} {st : TState} {g : Option ConvId} {cause : FaultCause}
    (h : t.Enters x u st g cause) (same : TrackerSees s t) : s.Enters x u st g cause := by
  obtain ⟨sees, trackers⟩ := same
  have tracker (v : UnitId) : t.tracker v = s.tracker v := congrArg (fun a => a.get v) trackers
  have now : t.now = s.now := congrArg Snapshot.time sees.snapshot
  have unit : t.unit u = s.unit u := congrArg (fun n : Snapshot => n.units.get u) sees.snapshot
  have queue : t.queue = s.queue := congrArg Snapshot.queue sees.snapshot
  obtain ⟨y, z, rfl, rfl, solver⟩ := h.solver
  refine ⟨?_, fun v hv => (h.others v hv).trans (tracker v), ?_, _, _, rfl, rfl, solver.trans ?_⟩
  · rw [h.tracker, tracker, now, unit]
  · rw [h.queue, tracker, queue]
  · have moved := sees.moved x.trackers x.queue
    rw [tracker]
    split <;> split
    · exact fullTrigger_congr moved .pin
    · exact fullTrigger_congr (moved.fullTrigger .availability) .pin
    · exact moved.solver
    · exact fullTrigger_congr moved .availability

/-- What follows a change of a tracker without touching trackers, start queue and solver leaves it standing. -/
theorem State.Enters.after {s x t : State} {u : UnitId} {st : TState} {g : Option ConvId} {cause : FaultCause}
    (h : s.Enters x u st g cause) {l : List Block} (frame : Unchanged l x t)
    (apart : ∀ b ∈ [Block.trackers, .queue, .solver], b ∉ l := by decide) : s.Enters t u st g cause := by
  have trackers : t.trackers = x.trackers := frame .trackers (apart _ (by decide))
  have queue : t.queue = x.queue := frame .queue (apart _ (by decide))
  have solver : t.solver = x.solver := frame .solver (apart _ (by decide))
  have tracker (v : UnitId) : t.tracker v = x.tracker v := congrArg (fun a => a.get v) trackers
  obtain ⟨y, z, hy, hz, hx⟩ := h.solver
  refine ⟨(tracker u).trans h.tracker, fun v hv => (tracker v).trans (h.others v hv), queue.trans h.queue,
    y, z, ?_, hz, ?_⟩
  · rw [trackers, queue, hy]
  · rw [tracker, solver, hx]

/-! ## Orders on two lines (R133, R134) -/

/-- An order finds and leaves the same unit line in two states. -/
structure OrdersAlike (s t : State) : Prop where
  line : t.line = s.line
  order : ∀ o, (t.placeOrder o).line = (s.placeOrder o).line

theorem LineSees.ordersAlike {s t : State} (h : LineSees s t) : OrdersAlike s t :=
  ⟨h.line, fun o => (placeOrder_congr h o).line⟩

/-- A detection leaves the line as it is, and an order goes as it would have gone before it. -/
theorem detectAt_ordersAlike (s : State) (k : ErrorKind) (n : Nat) : OrdersAlike s (s.detectAt k n) := by
  obtain ⟨e, own, tx, told, now⟩ := detectAt_only s k n
  have alike : LineSees s (s.setErrors e) := ⟨rfl, now, rfl, rfl⟩
  rw [told]
  refine ⟨rfl, fun o => ?_⟩
  have placed := placeOrders_setPort [o] { s.port with own := own, tx := tx } (s.setErrors e) rfl
  exact (congrArg State.line placed).trans (placeOrder_congr alike o).line

theorem OrdersAlike.refl (s : State) : OrdersAlike s s := ⟨rfl, fun _ => rfl⟩

theorem OrdersAlike.trans {s t x : State} (h : OrdersAlike s t) (k : OrdersAlike t x) : OrdersAlike s x :=
  ⟨k.line.trans h.line, fun o => (k.order o).trans (h.order o)⟩

/-! ## The release of a granted converter (R123, R124) -/

theorem spinning_eq_some_iff (st : ConvState) (u : UnitId) :
    st.spinning = some u ↔ st = .attaching u ∨ st = .driving u := by
  cases st <;> simp [ConvState.spinning]

theorem spinning_eq_none_iff (st : ConvState) :
    st.spinning = none ↔ ∀ u, st ≠ .attaching u ∧ st ≠ .driving u := by
  cases st <;> simp [ConvState.spinning]

/-- The converter that a machine leaving PUMP_SPIN has its grant of is released (R124), in a state `w` that has the
converters of `s` and in which an order goes as in `ordered`. -/
theorem detachGranted_detaches {s w ordered : State} (u : UnitId) (convs : w.convs = s.convs) (now : w.now = s.now)
    (settings : w.settings = s.settings) (alike : OrdersAlike ordered w) :
    s.Detaches ordered (w.detachGranted (s.tracker u)) (s.spinner u) := by
  have conv (c : ConvId) : w.conv c = s.conv c := congrArg (fun a => a.get c) convs
  have released (k : ConvId) (v : UnitId) (spins : (s.conv k).state.spinning = some v) :
      w.detachConv k = (w.placeOrder (.conv k .detach)).changeConv k (.detaching v) := by
    simp only [State.detachConv, conv, spins]
  unfold State.detachGranted State.spinner
  by_cases spin : (s.tracker u).state = .pumpSpin
  · rw [if_pos spin, if_pos spin]
    cases granted : (s.tracker u).granted with
    | none => exact ⟨fun _ => ⟨alike.line, convs⟩, nofun⟩
    | some k =>
      cases spins : (s.conv k).state.spinning with
      | none =>
        have kept : w.detachConv k = w := by simp only [State.detachConv, conv, spins]
        simp only [kept, Option.filter, spins, Option.isSome_none]
        exact ⟨fun _ => ⟨alike.line, convs⟩, nofun⟩
      | some v =>
        simp only [released k v spins, Option.filter, spins, Option.isSome_some]
        refine ⟨nofun, fun j a hj ha => ?_⟩
        obtain rfl : k = j := Option.some.inj hj
        obtain rfl : v = a := Option.some.inj (spins.symm.trans ha)
        have placed := frame_placeOrder w (.conv k .detach)
        have conv' (c : ConvId) : (w.placeOrder (.conv k .detach)).conv c = s.conv c :=
          (congrArg (fun a => a.get c) (placed .convs (by decide))).trans (conv c)
        have now' : (w.placeOrder (.conv k .detach)).now = s.now :=
          (congrArg ErrorMonitor.now (placed .errors (by decide))).trans now
        have settings' : (w.placeOrder (.conv k .detach)).settings = s.settings :=
          (placed .settings (by decide)).trans settings
        refine ⟨alike.order _, ?_, fun c hc => (changeConv_ne _ _ _ hc).trans (conv' c)⟩
        rw [changeConv_conv, conv', now', settings']
        simp [ConvState.timed]
  · rw [if_neg spin, if_neg spin]
    exact ⟨fun _ => ⟨alike.line, convs⟩, nofun⟩

/-- What follows a release without touching line and converters leaves it standing. -/
theorem State.Detaches.after {s ordered x t : State} {c : Option ConvId} (h : s.Detaches ordered x c)
    {l : List Block} (frame : Unchanged l x t)
    (apart : ∀ b ∈ [Block.line, .convs], b ∉ l := by decide) : s.Detaches ordered t c := by
  have line : t.line = x.line := frame .line (apart _ (by decide))
  have convs : t.convs = x.convs := frame .convs (apart _ (by decide))
  refine ⟨fun none => ?_, fun k v some spins => ?_⟩
  · rw [line, convs]
    exact h.none none
  · simp only [line, State.conv, convs]
    exact h.some k v some spins

/-- A change whose converter is released before it (R88, R93, R101), in a state `w` that it and the release read as
`s`. -/
theorem releaseThenChange_leaves {s w : State} (u : UnitId) (st : TState) (same : TrackerSees s w)
    (convs : w.convs = s.convs) (alike : OrdersAlike s w) :
    s.Enters ((w.detachGranted (s.tracker u)).changeTracker u st) u st none .noCause
      ∧ s.Detaches s ((w.detachGranted (s.tracker u)).changeTracker u st) (s.spinner u) := by
  have freed : Unchanged [.line, .convs] w (w.detachGranted (s.tracker u)) := frame_detachGranted w _
  have now : w.now = s.now := congrArg Snapshot.time same.sees.snapshot
  refine ⟨(changeTracker_enters _ u st none .noCause).before
      (same.trans (.of_unchanged (freed.mono (by decide)))), ?_⟩
  exact (detachGranted_detaches u convs now same.sees.settings alike).after (frame_changeTracker _ u st none .noCause)

/-! ## Detections behind and before a change -/

/-- A detection that follows changes of other blocks than the monitor, the port and SETTINGS. -/
theorem detectAt_records_after {s w : State} {l : List Block} (frame : Unchanged l s w) (k : ErrorKind) (n : Nat)
    (place : s.ownHasPlace)
    (apart : ∀ b ∈ [Block.errors, .port, .settings], b ∉ l := by decide) :
    s.Records (w.detectAt k n) (detection k n) := by
  have errors : w.errors = s.errors := frame .errors (apart _ (by decide))
  have port : w.port = s.port := frame .port (apart _ (by decide))
  have settings : w.settings = s.settings := frame .settings (apart _ (by decide))
  have place' : w.ownHasPlace := by
    unfold State.ownHasPlace
    rw [port]
    exact place
  exact (detect_records w _ place').1.congr errors.symm port.symm settings.symm rfl rfl

/-- What follows a detection without touching monitor and port leaves its record standing. -/
theorem State.Records.after {s x t : State} {d : Detection} (h : s.Records x d) {l : List Block}
    (frame : Unchanged l x t) (apart : ∀ b ∈ [Block.errors, .port], b ∉ l := by decide) : s.Records t d :=
  h.congr rfl rfl rfl (frame .errors (apart _ (by decide))) (frame .port (apart _ (by decide)))

/-! ## The fault of a machine (R92, R94, R96) -/

theorem faultUnit_faults (s : State) (u : UnitId) (cause : FaultCause) (kind : ErrorKind) (place : s.ownHasPlace) :
    s.Faults (s.faultUnit u cause kind) u cause kind := by
  let moved := s.changeTracker u .faulted none cause
  let stopped := moved.queueStop u
  let freed := stopped.detachGranted (s.tracker u)
  have fm : Unchanged [.trackers, .queue, .solver] s moved := frame_changeTracker s u .faulted none cause
  have fs : Unchanged [.line] moved stopped := frame_queueStop moved u
  have ff : Unchanged [.line, .convs] stopped freed := frame_detachGranted stopped (s.tracker u)
  have ft : Unchanged [.errors, .port] freed (freed.detectAt kind (unitNumber u)) := frame_told _ _ _
  have before := fm.seq fs
  have order : LineSees (s.placeOrder (.unit u .stop)) stopped :=
    placeOrder_congr (.of_unchanged fm) (.unit u .stop)
  refine ⟨?_, ?_, ?_, (before.seq (ff.seq ft)).mono (by decide)⟩
  · exact (changeTracker_enters s u .faulted none cause).after ((fs.seq ff).seq ft)
  · exact (detachGranted_detaches u (before .convs (by decide))
      (congrArg ErrorMonitor.now (before .errors (by decide))) (before .settings (by decide))
      order.ordersAlike).after ft
  · exact detectAt_records_after (before.seq ff) kind (unitNumber u) place

/-! ## The stop of a machine (R22, R126, R128, R130) -/

theorem stopUnit_enters (s : State) (u : UnitId) : s.Enters (s.stopUnit u) u .stopping none .noCause :=
  (changeTracker_enters (s.queueStop u) u .stopping none .noCause).before
    (.of_unchanged ((frame_queueStop s u).mono (by decide)))

theorem stopUnit_line (s : State) (u : UnitId) : (s.stopUnit u).line = (s.placeOrder (.unit u .stop)).line :=
  frame_changeTracker (s.queueStop u) u .stopping none .noCause .line (by decide)

/-! ## A converter that fails or is lost (R126, R128) -/

/-- A converter record that has changed, with what follows leaving the converters. -/
theorem State.ConvEnters.after {s x t : State} {c : ConvId} {st : ConvState} {cause : ConvCause}
    (h : s.ConvEnters x c st cause) {l : List Block} (frame : Unchanged l x t)
    (apart : Block.convs ∉ l := by decide) : s.ConvEnters t c st cause := by
  have convs : t.convs = x.convs := frame .convs apart
  simpa only [State.ConvEnters, State.conv, convs] using h

/-- A converter record that changes behind what leaves the converters, SETTINGS and the time. -/
theorem State.ConvEnters.before {s t x : State} {c : ConvId} {st : ConvState} {cause : ConvCause}
    (h : t.ConvEnters x c st cause) {l : List Block} (frame : Unchanged l s t)
    (apart : ∀ b ∈ [Block.convs, .settings, .errors], b ∉ l := by decide) : s.ConvEnters x c st cause := by
  have convs : t.convs = s.convs := frame .convs (apart _ (by decide))
  have settings : t.settings = s.settings := frame .settings (apart _ (by decide))
  have errors : t.errors = s.errors := frame .errors (apart _ (by decide))
  simpa only [State.ConvEnters, State.conv, State.now, convs, settings, errors] using h

/-- The fault of a converter (R126). -/
theorem faultConv_faults (s : State) (c : ConvId) (cause : ConvCause) (place : s.ownHasPlace) :
    s.ConvFaults (s.faultConv c cause) c cause := by
  let told := (s.changeConv c .faulted cause).detectAt .converterFault (convStation c)
  have changed := frame_changeConv s c .faulted cause
  have ft : Unchanged [.convs, .errors, .port] s told := changed.seq (frame_told _ _ _)
  have enters : s.ConvEnters told c .faulted cause := (changeConv_enters s c .faulted cause).after (frame_told _ _ _)
  have records : s.Records told (detection .converterFault (convStation c)) :=
    detectAt_records_after changed _ _ place
  have sees : TrackerSees s told := (TrackerSees.of_unchanged (changed.mono (by decide))).trans
    (detectAt_trackerSees _ _ _)
  have alike : OrdersAlike s told := (LineSees.of_unchanged changed).ordersAlike.trans (detectAt_ordersAlike _ _ _)
  cases spins : (s.conv c).state.spinning with
  | none =>
    have run : s.faultConv c cause = told := by simp only [State.faultConv, spins, told]
    rw [run]
    exact ⟨enters, records, fun u hu => absurd ((spinning_eq_some_iff _ u).2 hu) (by rw [spins]; nofun),
      fun _ => ft, ft.mono (by decide)⟩
  | some v =>
    have run : s.faultConv c cause = told.stopUnit v := by simp only [State.faultConv, spins, told]
    have stop := frame_stopUnit told v
    rw [run]
    refine ⟨enters.after stop, records.after stop, fun u hu => ?_, fun idle => ?_, (ft.seq stop).mono (by decide)⟩
    · obtain rfl : v = u := Option.some.inj (spins.symm.trans ((spinning_eq_some_iff _ u).2 hu))
      exact ⟨(stopUnit_enters told v).before sees, (stopUnit_line told v).trans (alike.order _)⟩
    · rw [(spinning_eq_none_iff _).2 idle] at spins
      cases spins

end Sys2Proof.Machine
end

section
/-! PROOFS. Releases of lines and the passing second; a trip line's assertion; the deadlines of transitional states and
of converters (R92, R96, R97, R125, R126, R179, R181, R182, R189). -/
namespace Sys2Proof.Machine
open Host

/-! ## Releases and seconds (R97, R179, R181, R189) -/

theorem setTripLevel_leaves (s : State) (u : UnitId) (asserted : Bool) :
    (s.setTripLevel u asserted).inputs.tripLevel.get u = asserted
      ∧ ∀ v, v ≠ u → (s.setTripLevel u asserted).inputs.tripLevel.get v = s.inputs.tripLevel.get v :=
  ⟨upd_get_self _ _ _, fun _ hv => upd_get_ne _ _ (Ne.symm hv)⟩

/-- The device time stops at its greatest value (R189). -/
theorem tick_errors (s : State) (range : s.now ≤ 4294967295) :
    s.tick.errors = { s.errors with now := min (s.now + 1) 4294967295 } := by
  have next (n : Nat) (h : n ≤ 4294967295) : (if n < 4294967295 then n + 1 else n) = min (n + 1) 4294967295 := by
    split <;> omega
  exact congrArg (fun n => { s.errors with now := n }) (next s.errors.now range)

/-- Settles O26: each of the four is one update of one block; in device reset processing no second is taken. -/
theorem releasesAndSecondsMoveOneField : Obligations.ReleasesAndSecondsMoveOneField := by
  intro s u
  obtain ⟨released, kept⟩ := setTripLevel_leaves s u false
  refine ⟨⟨_, rfl, frame_setInputs s _, released, kept, rfl⟩, ⟨_, rfl, frame_setInputs s _, rfl⟩,
    ⟨_, rfl, frame_setInputs s _, rfl⟩, _, rfl, ?_, fun runs range => ?_, whenRunning_reset s _⟩
  · by_cases reset : s.processing = .deviceReset
    · rw [whenRunning_reset s _ reset]
      exact Unchanged.refl _ s
    · rw [whenRunning_of s _ reset]
      exact frame_setErrors s _
  · rw [whenRunning_of s _ runs]
    exact tick_errors s range

/-! ## Trip lines (R96, R181, R182) -/

theorem tripUnit_faulted (s : State) (u : UnitId) (faulted : (s.tracker u).state = .faulted) :
    s.tripUnit u = s.detectAt .unitTrip (unitNumber u) := if_pos faulted

theorem tripUnit_sound (s : State) (u : UnitId) (sound : (s.tracker u).state ≠ .faulted) :
    s.tripUnit u = s.faultUnit u .tripLine .unitTrip := if_neg sound

/-- No walk event reads the level of a trip line (R110). -/
theorem exec_tripLineAssert (s : State) (u : UnitId) (runs : s.processing ≠ .deviceReset) :
    exec (.tripLineAssert u) s = .next (State.walkAfter s ((s.setInputs { s.inputs with
      tripLevel := upd s.inputs.tripLevel u true, tripFlag := upd s.inputs.tripFlag u true }).tripUnit u)) :=
  congrArg Outcome.next (whenRunning_of (s.setTripLevel u true) _ runs)

/-- Settles O39: the machine's state decides between the record alone and the fault. -/
theorem tripLineFaultsItsMachine : Obligations.TripLineFaultsItsMachine := by
  intro s u runs place x
  refine ⟨_, exec_tripLineAssert s u runs, fun faulted => ?_, fun sound => ?_⟩
  · rw [tripUnit_faulted x u faulted]
    exact detect_records x _ place
  · rw [tripUnit_sound x u sound]
    exact faultUnit_faults x u .tripLine .unitTrip place

/-! ## Deadlines (R92, R125, R126) -/

theorem dueAt_some {e now : Time} (h : e ≤ now) : dueAt (some e) now = true := decide_eq_true h

theorem exec_transitionDeadline_due (s : State) (u : UnitId) (e : Time) (runs : s.processing ≠ .deviceReset)
    (set : (s.tracker u).deadline = some e) (due : e ≤ s.now) :
    exec (.transitionDeadline u) s
      = .next (State.walkAfter s (s.faultUnit u .transitionTimeout .transitionTimeout)) :=
  congrArg Outcome.next ((whenRunning_of s _ runs).trans (if_pos (by rw [set]; exact dueAt_some due)))

theorem exec_converterDeadline_due (s : State) (c : ConvId) (e : Time) (runs : s.processing ≠ .deviceReset)
    (set : (s.conv c).deadline = some e) (due : e ≤ s.now) :
    exec (.converterDeadline c) s = .next (State.walkAfter s (s.expireConv c)) :=
  congrArg Outcome.next ((whenRunning_of s _ runs).trans (if_pos (by rw [set]; exact dueAt_some due)))

theorem expireConv_attaching (s : State) (c : ConvId) (u : UnitId) (h : (s.conv c).state = .attaching u) :
    s.expireConv c = s.faultConv c .attachTimeout := by
  simp only [State.expireConv, h]

theorem expireConv_detaching (s : State) (c : ConvId) (u : UnitId) (h : (s.conv c).state = .detaching u) :
    s.expireConv c = s.faultConv c .detachTimeout := by
  simp only [State.expireConv, h]

/-- The record of a converter that has entered FAULTED (R117, R126). -/
theorem State.ConvFaults.record {s x : State} {c : ConvId} {cause : ConvCause} (h : s.ConvFaults x c cause) :
    x.conv c = { s.conv c with state := .faulted, entryTime := s.now, deadline := none, cause := cause } := by
  simpa using h.enters.1

/-- Settles O31: a transitional deadline faults its machine; a converter's deadline faults the converter by the state
left, which says whether a machine is stopped. -/
theorem deadlinesFaultMachineAndConverter : Obligations.DeadlinesFaultMachineAndConverter := by
  refine ⟨fun s u e runs place set due => ⟨_, exec_transitionDeadline_due s u e runs set due,
    faultUnit_faults s u _ _ place⟩, fun s c u e runs place set due state => ?_⟩
  refine ⟨_, exec_converterDeadline_due s c e runs set due, ?_⟩
  rcases state with attaching | detaching
  · rw [expireConv_attaching s c u attaching]
    have faults := faultConv_faults s c .attachTimeout place
    obtain ⟨enters, line⟩ := faults.stops.spun u (.inl attaching)
    refine ⟨faults.record.trans (by rw [if_pos attaching]), faults.enters.2, faults.records, fun detaching => ?_,
      fun _ => ⟨enters, line, faults.stops.unchanged.mono (by decide)⟩⟩
    rw [attaching] at detaching
    cases detaching
  · rw [expireConv_detaching s c u detaching]
    have faults := faultConv_faults s c .detachTimeout place
    have left : (s.conv c).state ≠ .attaching u := by
      rw [detaching]
      nofun
    have idle (v : UnitId) : (s.conv c).state ≠ .attaching v ∧ (s.conv c).state ≠ .driving v := by
      rw [detaching]
      exact ⟨nofun, nofun⟩
    exact ⟨faults.record.trans (by rw [if_neg left]), faults.enters.2, faults.records,
      fun _ => faults.stops.idle idle, fun attaching => absurd attaching left⟩

end Sys2Proof.Machine
end

section
/-! PROOFS. The close of a reply window, the loss of a station and the reply timeout (R101, R128, R137, R141, R143 to
R146). -/
namespace Sys2Proof.Machine
open Host

/-! ## The close of a window (R137, R143, R144, R146) -/

/-- The scan's decisions at the close, in the order of the statements. -/
theorem closeWindow_eq_closed (y : State) (a : Nat) (advance : Bool) :
    y.closeWindow a advance = y.closed a advance := by
  unfold State.closeWindow State.closed State.advanceScan nextStation
  refine congrArg (fun l => (y.setLine l).lineChoose) ?_
  cases advance with
  | false => cases stop : y.line.stopPending <;> simp [stop]
  | true =>
    by_cases last : a = y.line.scanEnd
    · cases stop : y.line.stopPending <;> simp [stop, last]
    · cases stop : y.line.stopPending <;> simp [stop, last]

/-! ## The loss of a unit station (R101) -/

theorem loseUnit_lost (s : State) (u : UnitId) (lost : (s.tracker u).state = .lost) : s.loseUnit u = s := if_pos lost

theorem loseUnit_known (s : State) (u : UnitId) (known : (s.tracker u).state ≠ .lost) : s.loseUnit u
    = ((s.detachGranted (s.tracker u)).changeTracker u .lost).detectAt .stationLost (unitNumber u) := if_neg known

theorem loseUnit_loses (s : State) (u : UnitId) (known : (s.tracker u).state ≠ .lost) :
    s.Enters (s.loseUnit u) u .lost none .noCause ∧ s.Detaches s (s.loseUnit u) (s.spinner u)
      ∧ (s.ownHasPlace → s.Records (s.loseUnit u) (detection .stationLost (unitNumber u))) := by
  obtain ⟨enters, detaches⟩ := releaseThenChange_leaves u .lost (.refl s) rfl (.refl s)
  have told := frame_told ((s.detachGranted (s.tracker u)).changeTracker u .lost) .stationLost (unitNumber u)
  rw [loseUnit_known s u known]
  exact ⟨enters.after told, detaches.after told, detectAt_records_after
    ((frame_detachGranted s _).seq (frame_changeTracker _ u .lost none .noCause)) _ _⟩

/-! ## The loss of a converter station (R128) -/

theorem loseConv_lost (s : State) (c : ConvId) (lost : (s.conv c).state = .lost) : s.loseConv c = s := by
  simp only [State.loseConv, lost]

/-- A machine that the converter was spinning up is stopped before the record changes. -/
theorem loseConv_known (s : State) (c : ConvId) (fitted : (s.conv c).state ≠ .absent)
    (known : (s.conv c).state ≠ .lost) : s.loseConv c = ((match (s.conv c).state.spinning with
      | some u => s.stopUnit u
      | none => s).changeConv c .lost).detectAt .stationLost (convStation c) := by
  unfold State.loseConv
  split
  · contradiction
  · contradiction
  · rfl

theorem loseConv_loses (s : State) (c : ConvId) (fitted : (s.conv c).state ≠ .absent)
    (known : (s.conv c).state ≠ .lost) :
    s.ConvEnters (s.loseConv c) c .lost .noCause ∧ s.StopsSpun (s.loseConv c) c
      ∧ (s.ownHasPlace → s.Records (s.loseConv c) (detection .stationLost (convStation c))) := by
  have behind (w : State) : Unchanged [.convs, .errors, .port] w
      ((w.changeConv c .lost).detectAt .stationLost (convStation c)) :=
    (frame_changeConv w c .lost .noCause).seq (frame_told _ _ _)
  have enters (w : State) : w.ConvEnters ((w.changeConv c .lost).detectAt .stationLost (convStation c)) c .lost
      .noCause := (changeConv_enters w c .lost .noCause).after (frame_told _ _ _)
  rw [loseConv_known s c fitted known]
  cases spins : (s.conv c).state.spinning with
  | none =>
    refine ⟨enters s, ⟨fun u hu => ?_, fun _ => behind s, (behind s).mono (by decide)⟩,
      detectAt_records_after (frame_changeConv s c _ _) _ _⟩
    exact absurd ((spinning_eq_some_iff _ u).2 hu) (by rw [spins]; nofun)
  | some v =>
    have stop : Unchanged stopBlocks s (s.stopUnit v) := frame_stopUnit s v
    refine ⟨(enters _).before stop, ⟨fun u hu => ?_, fun idle => ?_, (stop.seq (behind _)).mono (by decide)⟩,
      detectAt_records_after (stop.seq (frame_changeConv _ c _ _)) _ _⟩
    · obtain rfl : v = u := Option.some.inj (spins.symm.trans ((spinning_eq_some_iff _ u).2 hu))
      exact ⟨(stopUnit_enters s v).after (behind _), (behind _ .line (by decide)).trans (stopUnit_line s v)⟩
    · rw [(spinning_eq_none_iff _).2 idle] at spins
      cases spins

/-! ## Whose station it is (R132, R141) -/

theorem unitOf_convStation (c : ConvId) : unitOf (convStation c) = none := by
  fin_cases c <;> rfl

theorem loseStation_unit (s : State) (u : UnitId) : s.loseStation (unitNumber u) = s.loseUnit u := by
  simp only [State.loseStation, unitOf_unitNumber]

theorem loseStation_conv (s : State) (c : ConvId) : s.loseStation (convStation c) = s.loseConv c := by
  fin_cases c <;> rfl

theorem tracked_conv (s : State) (c : ConvId) (h : s.tracked (convStation c) = true) :
    (s.conv c).state ≠ .absent := by
  rw [State.tracked, unitOf_convStation] at h
  obtain ⟨d, -, hd⟩ := List.any_eq_true.1 h
  rw [Bool.and_eq_true, beq_iff_eq, bne_iff_ne] at hd
  obtain ⟨same, fitted⟩ := hd
  have same : d = c := Fin.ext (Nat.add_right_cancel same)
  exact same ▸ fitted

/-! ## A miss (R141) -/

/-- The part with a miss of a tracked station counted and recorded. -/
def State.missed (s : State) (a : Nat) : State :=
  (s.setMiss a (min (s.missCount a + 1) s.settings.missLimit)).detectAt .pollMiss a

/-- The three ways of a miss: not counted, counted below the limit, counted at the limit with the loss. -/
theorem countMiss_eq (s : State) (a : Nat) : s.countMiss a =
    if s.tracked a = true then
      if min (s.missCount a + 1) s.settings.missLimit = s.settings.missLimit then
        State.walkAfter (s.missed a) ((s.missed a).loseStation a)
      else s.missed a
    else s := rfl

theorem missed_line (s : State) (a : Nat) : (s.missed a).line = { s.line with
    misses := s.missesWith a (min (s.missCount a + 1) s.settings.missLimit) } := by
  have line := frame_told (s.setMiss a (min (s.missCount a + 1) s.settings.missLimit)) .pollMiss a .line (by decide)
  exact line.trans (congrArg State.line (setMiss_eq s a _))

theorem frame_missed (s : State) (a : Nat) : Unchanged [.line, .errors, .port] s (s.missed a) :=
  (frame_setMiss s a _).seq (frame_told _ _ _)

theorem missed_records (s : State) (a : Nat) (place : s.ownHasPlace) : s.Records (s.missed a) (detection .pollMiss a) :=
  detectAt_records_after (frame_setMiss s a _) _ _ place

/-- Where nothing happens no walk runs (R110). -/
theorem walkAfter_self (s : State) : State.walkAfter s s = s :=
  walkAfter_still s s (fun _ => rfl) rfl (by cases s.isRemote <;> simp)

/-! ## The reply timeout (R137) -/

theorem exec_replyWindowTimeout_held (s : State) (a n : Nat) (advance expired : Bool)
    (runs : s.processing ≠ .deviceReset) (window : s.line.activity = .window a advance n expired)
    (held : s.line.rx ≠ none) : exec .replyWindowTimeout s
      = .next (s.setLine { s.line with activity := .window a advance n true }) := by
  obtain ⟨place, some⟩ := Option.ne_none_iff_exists'.1 held
  refine congrArg Outcome.next ((whenRunning_of s _ runs).trans ?_)
  simp only [State.windowTimeout, window, some]

theorem exec_replyWindowTimeout_free (s : State) (a n : Nat) (advance expired : Bool)
    (runs : s.processing ≠ .deviceReset) (window : s.line.activity = .window a advance n expired)
    (free : s.line.rx = none) : exec .replyWindowTimeout s = .next ((s.countMiss a).closed a advance) := by
  refine congrArg Outcome.next ((whenRunning_of s _ runs).trans ?_)
  simp only [State.windowTimeout, window, free, State.missWindow, closeWindow_eq_closed]

/-- Settles O36: a reception in progress holds the window; otherwise the miss, whose loss goes to the owner of the
station, and the close. -/
theorem replyTimeoutCountsAMiss : Obligations.ReplyTimeoutCountsAMiss := by
  intro s a advance expired inWindow place
  obtain ⟨runs, ⟨n, window⟩, -⟩ := inWindow
  refine ⟨fun held => ⟨_, exec_replyWindowTimeout_held s a n advance expired runs window held, frame_setLine s _,
    n, window, rfl⟩, fun free => ⟨s.missed a, s.countMiss a,
    exec_replyWindowTimeout_free s a n advance expired runs window free, fun untracked => ?_, fun tracked => ?_⟩⟩
  · rw [countMiss_eq, if_neg (by simp [untracked])]
  have frame := frame_missed s a
  have trackers : (s.missed a).trackers = s.trackers := frame .trackers (by decide)
  have convs : (s.missed a).convs = s.convs := frame .convs (by decide)
  refine ⟨missed_line s a, missed_records s a place, frame, fun below => ?_, fun limit => ?_⟩
  · rw [countMiss_eq, if_pos tracked, if_neg (Nat.ne_of_lt below)]
  rw [countMiss_eq, if_pos tracked, if_pos limit]
  refine ⟨fun u station => ?_, fun c station => ?_⟩
  · subst station
    have tracker : (s.missed (unitNumber u)).tracker u = s.tracker u := congrArg (fun v => v.get u) trackers
    rw [loseStation_unit, ← tracker]
    refine ⟨fun lost => ?_, fun known => ⟨_, rfl, ?_⟩⟩
    · rw [loseUnit_lost _ u lost, walkAfter_self]
    · obtain ⟨enters, detaches, records⟩ := loseUnit_loses _ u known
      exact ⟨enters, detaches, records, (frame_loseUnit _ u).mono (by decide)⟩
  · subst station
    have conv : (s.missed (convStation c)).conv c = s.conv c := congrArg (fun v => v.get c) convs
    have fitted := tracked_conv s c tracked
    rw [loseStation_conv]
    rw [← conv] at fitted ⊢
    refine ⟨fun lost => ?_, fun known => ⟨_, rfl, loseConv_loses _ c fitted known⟩⟩
    rw [loseConv_lost _ c lost, walkAfter_self]

end Sys2Proof.Machine
end

section
/-! PROOFS. A unit report: its payload, what the tracker's state makes of it, and its way from the reply window to the
tracker (R82, R86 to R97, R137 to R139, R158; log entries 11, 20, 24). -/
namespace Sys2Proof.Machine
open Host

/-! ## The payload (R82, section 11.2) -/

theorem unitReportFields_eq_some_iff (p : List Byte) (r : UnitReport) :
    unitReportFields p = some r ↔ ReportSays p r := by
  constructor
  · intro h
    unfold unitReportFields at h
    split at h
    · rename_i m b p1 p0
      split at h
      · rename_i mode ready hm hb
        split at h
        · rename_i range
          cases h
          have small : b.toNat ≤ 1 := by
            by_contra large
            rw [ofFlag_none b (by omega)] at hb
            cases hb
          rw [ofFlag_byte b small] at hb
          exact ⟨m, b, p1, p0, rfl, hm, small, (Option.some.inj hb).symm, rfl, range⟩
        · cases h
      · cases h
    · cases h
  · rintro ⟨m, b, p1, p0, rfl, hm, small, ready, power, range⟩
    have mode : ofCode unitModes m = some r.mode := hm
    simp only [unitReportFields, mode, ofFlag_byte b small, ← ready, ← power, if_pos range]

theorem unitReportFields_eq_none (p : List Byte) (h : ∀ r, ¬ ReportSays p r) : unitReportFields p = none :=
  Option.eq_none_iff_forall_ne_some.2 fun r hr => h r ((unitReportFields_eq_some_iff p r).1 hr)

/-! ## What a state makes of a report (R86 to R91, R95) -/

theorem learns_iff (st : TState) : st.relearns = true ↔ st.Learns := by
  cases st <;> simp [TState.relearns, TState.Learns]

/-- What a report other than TRIPPED teaches is one state (R86). -/
theorem adopts_iff (r : UnitReport) (st : TState) (running : r.mode ≠ .tripped) :
    r.Adopts st ↔ st = r.relearn := by
  unfold UnitReport.Adopts UnitReport.relearn
  cases mode : r.mode with
  | tripped => exact absurd mode running
  | atRest => cases r.ready <;> simp
  | _ => simp

/-- The reports that a stop origin still accepts, as the table of R91 pairs them. -/
theorem stopAccepts_iff (origin : Option TState) (m : UnitMode) : stopAccepts origin m = true ↔
    ∃ o, origin = some o
      ∧ (o, m) ∈ [(TState.gen, UnitMode.runningGen), (.pump, .runningPump), (.genStart, .genSeq),
          (.genStart, .runningGen), (.pumpSpin, .pumpSeqSpin), (.pumpPrime, .synchronized),
          (.pumpPrime, .priming), (.pumpPrime, .runningPump), (.changeover, .runningPump),
          (.changeover, .changeoverSeq), (.changeover, .runningGen)] := by
  cases origin with
  | none => simp [stopAccepts]
  | some o => cases o <;> cases m <;> simp [stopAccepts]

theorem stopAccepts_atRest (origin : Option TState) : stopAccepts origin .atRest = false := by
  cases origin with
  | none => rfl
  | some o => cases o <;> rfl

/-- The reports of a machine that stops (R91). -/
theorem judgeReport_stopping (t : Tracker) (r : UnitReport) (state : t.state = .stopping) : judgeReport t r =
    if r.mode = .atRest then .enter (if r.ready = true then .idle else .notReady)
    else if r.mode = .stopSeq ∨ stopAccepts t.stopOrigin r.mode = true then .keep else .mismatch := by
  unfold judgeReport
  rw [state]
  cases r.mode <;> simp

/-- State by state, the reports that change nothing (R86 to R88, R90, R91). -/
theorem judgeReport_keep_iff (t : Tracker) (r : UnitReport) (sound : t.state ≠ .faulted)
    (running : r.mode ≠ .tripped) : judgeReport t r = .keep ↔ t.Accepts r := by
  unfold Tracker.Accepts
  rw [← stopAccepts_iff]
  cases state : t.state with
  | faulted => exact absurd state sound
  | unknown | lost => simp [judgeReport, state]
  | observed => simp [judgeReport, state, adopts_iff r _ running, @eq_comm _ TState.observed]
  | idle | notReady =>
    by_cases rest : r.mode = .atRest
    · cases ready : r.ready <;> simp [judgeReport, state, rest, ready]
    · simp [judgeReport, state, rest]
  | gen | pump | genStart | pumpSpin | pumpPrime | changeover =>
    simp only [judgeReport, state]
    cases r.mode <;> simp
  | stopping =>
    rw [judgeReport_stopping t r state]
    by_cases rest : r.mode = .atRest
    · simp [rest, stopAccepts_atRest]
    · simp [rest, or_iff_not_imp_left]

/-- State by state, the states entered: by a state that moves on, or by one that learns (R86, R87, R90, R91). -/
theorem judgeReport_enter_iff (t : Tracker) (r : UnitReport) (st : TState)
    (running : r.mode ≠ .tripped) : judgeReport t r = .enter st ↔
      t.Moves r st ∨ t.state.Learns ∧ ¬ t.Accepts r ∧ r.Adopts st := by
  unfold Tracker.Moves TState.Learns
  rw [adopts_iff r _ running]
  cases state : t.state with
  | unknown | lost => simp [judgeReport, Tracker.Accepts, state, @eq_comm _ _ st]
  | observed =>
    by_cases same : r.relearn = .observed
    · simp [judgeReport, Tracker.Accepts, state, adopts_iff r _ running, same]
    · simp [judgeReport, Tracker.Accepts, state, adopts_iff r _ running, same, Ne.symm same, @eq_comm _ _ st]
  | idle | notReady =>
    by_cases rest : r.mode = .atRest
    · cases ready : r.ready <;> simp [judgeReport, state, rest, ready, @eq_comm _ _ st]
    · simp [judgeReport, state, rest]
  | gen | pump | faulted | genStart | pumpSpin | pumpPrime | changeover =>
    simp only [judgeReport, state]
    cases r.mode <;> simp [@eq_comm _ _ st]
  | stopping =>
    rw [judgeReport_stopping t r state]
    by_cases rest : r.mode = .atRest
    · cases r.ready <;> simp [rest, @eq_comm _ _ st]
    · simp only [rest, if_false]
      split <;> simp

/-- A converter is released by SYNCHRONIZED in PUMP_SPIN alone (R90). -/
theorem judgeReport_release_iff (t : Tracker) (r : UnitReport) : judgeReport t r = .release ↔
    t.state = .pumpSpin ∧ r.mode = .synchronized := by
  refine ⟨fun h => ⟨judgeReport_release t r h, ?_⟩, fun h => by simp [judgeReport, h]⟩
  simp only [judgeReport, judgeReport_release t r h] at h
  split at h <;> simp_all

/-! ## A report applied (R82, R93, R94, R97) -/

section
variable {x : State} {u : UnitId} {r : UnitReport}

theorem applyReport_faulted (faulted : (x.tracker u).state = .faulted) : x.applyReport u r = x := if_pos faulted

theorem applyReport_tripped (sound : (x.tracker u).state ≠ .faulted) (tripped : r.mode = .tripped) :
    x.applyReport u r = if ((x.tracker u).state.relearns && x.held u) = true then x.faultUnit u .tripLine .unitTrip
      else x.faultUnit u .unitTrip .unitTrip :=
  (if_neg sound).trans (if_pos tripped)

theorem applyReport_keep (sound : (x.tracker u).state ≠ .faulted) (running : r.mode ≠ .tripped)
    (judged : judgeReport (x.tracker u) r = .keep) : x.applyReport u r = x := by
  simp only [State.applyReport, if_neg sound, if_neg running, judged]

theorem applyReport_enter {st : TState} (sound : (x.tracker u).state ≠ .faulted) (running : r.mode ≠ .tripped)
    (judged : judgeReport (x.tracker u) r = .enter st) : x.applyReport u r
      = if ((x.tracker u).state.relearns && x.held u) = true then x.faultUnit u .tripLine .unitTrip
        else x.changeTracker u st := by
  simp only [State.applyReport, if_neg sound, if_neg running, judged]

theorem applyReport_release (sound : (x.tracker u).state ≠ .faulted) (running : r.mode ≠ .tripped)
    (judged : judgeReport (x.tracker u) r = .release) :
    x.applyReport u r = (x.detachGranted (x.tracker u)).changeTracker u .pumpPrime := by
  simp only [State.applyReport, if_neg sound, if_neg running, judged]

theorem applyReport_mismatch (sound : (x.tracker u).state ≠ .faulted) (running : r.mode ≠ .tripped)
    (judged : judgeReport (x.tracker u) r = .mismatch) : x.applyReport u r
      = if x.held u = true then x.faultUnit u .tripLine .unitTrip else x.mismatchUnit u r := by
  simp only [State.applyReport, if_neg sound, if_neg running, judged]

end

/-- A mismatch (R93): the detection, a granted converter released, the re-learned state adopted. -/
theorem mismatchUnit_leaves (x : State) (u : UnitId) (r : UnitReport) (place : x.ownHasPlace) :
    x.Records (x.mismatchUnit u r) (detection .reportMismatch (unitNumber u))
      ∧ x.Detaches x (x.mismatchUnit u r) (x.spinner u) ∧ x.Enters (x.mismatchUnit u r) u r.relearn none .noCause
      ∧ Unchanged [.trackers, .queue, .solver, .line, .convs, .errors, .port] x (x.mismatchUnit u r) := by
  have told := frame_told x .reportMismatch (unitNumber u)
  obtain ⟨enters, detaches⟩ := releaseThenChange_leaves u r.relearn
    (detectAt_trackerSees x .reportMismatch (unitNumber u)) (told .convs (by decide)) (detectAt_ordersAlike x _ _)
  refine ⟨(detect_records x _ place).1.after ((frame_detachGranted _ (x.tracker u)).seq
    (frame_changeTracker _ u r.relearn none .noCause)), detaches, enters, (frame_mismatchUnit x u r).mono (by decide)⟩

theorem changeTracker_leaves (x : State) (u : UnitId) (st : TState) :
    x.Enters (x.changeTracker u st) u st none .noCause
      ∧ Unchanged [.trackers, .queue, .solver] x (x.changeTracker u st) :=
  ⟨changeTracker_enters x u st none .noCause, frame_changeTracker x u st none .noCause⟩

/-- A state that moves on with a report is none that learns, and the report is none of TRIPPED (R87, R90, R91). -/
theorem Tracker.Moves.plain {t : Tracker} {r : UnitReport} {st : TState} (h : t.Moves r st) :
    t.state ≠ .faulted ∧ r.mode ≠ .tripped ∧ t.state.relearns = false := by
  rcases h with h | ⟨h, rest, -⟩ | ⟨h, rest, -⟩
  · simp only [List.mem_cons, Prod.mk.injEq, List.not_mem_nil, or_false] at h
    rcases h with ⟨state, mode, -⟩ | ⟨state, mode, -⟩ | ⟨state, mode, -⟩ <;> simp [state, mode, TState.relearns]
  · simp only [List.mem_cons, List.not_mem_nil, or_false] at h
    rcases h with state | state <;> simp [state, rest, TState.relearns]
  · simp only [List.mem_cons, List.not_mem_nil, or_false] at h
    rcases h with state | state <;> simp [state, rest, TState.relearns]

theorem TState.Learns.sound {st : TState} (h : st.Learns) : st ≠ .faulted := by
  rcases h with rfl | rfl | rfl <;> nofun

/-- What is neither accepted, nor moves the tracker on, nor learned, nor the release of R90 is a mismatch (R93). -/
theorem judgeReport_mismatch (t : Tracker) (r : UnitReport) (sound : t.state ≠ .faulted)
    (known : ¬ t.state.Learns) (running : r.mode ≠ .tripped) (refused : ¬ t.Accepts r)
    (still : ∀ st, ¬ t.Moves r st) (unreleased : ¬ (t.state = .pumpSpin ∧ r.mode = .synchronized)) :
    judgeReport t r = .mismatch := by
  cases judged : judgeReport t r with
  | keep => exact absurd ((judgeReport_keep_iff t r sound running).1 judged) refused
  | enter st =>
    rcases (judgeReport_enter_iff t r st running).1 judged with moves | learns
    · exact absurd moves (still st)
    · exact absurd learns.1 known
  | release => exact absurd ((judgeReport_release_iff t r).1 judged) unreleased
  | mismatch => rfl

/-- A report applied does what the tracker's state makes of it. -/
theorem applyReport_takes (x : State) (u : UnitId) (r : UnitReport) (place : x.ownHasPlace) :
    x.TakesReport (x.applyReport u r) u r where
  faulted := applyReport_faulted
  tripped sound tripped free := by
    rw [applyReport_tripped sound tripped, if_neg (by rwa [Bool.and_eq_true, learns_iff])]
    exact faultUnit_faults x u _ _ place
  accepted running accepts := by
    by_cases faulted : (x.tracker u).state = .faulted
    · exact applyReport_faulted faulted
    · exact applyReport_keep faulted running ((judgeReport_keep_iff _ r faulted running).2 accepts)
  learned learns running refused free st adopts := by
    have judged := (judgeReport_enter_iff _ r st running).2 (.inr ⟨learns, refused, adopts⟩)
    rw [applyReport_enter learns.sound running judged, if_neg (by simp [free])]
    exact changeTracker_leaves x u st
  learnedHeld learns report held := by
    have hold : ((x.tracker u).state.relearns && x.held u) = true := by
      rw [Bool.and_eq_true, learns_iff]
      exact ⟨learns, held⟩
    by_cases tripped : r.mode = .tripped
    · rw [applyReport_tripped learns.sound tripped, if_pos hold]
      exact faultUnit_faults x u _ _ place
    · have judged := (judgeReport_enter_iff _ r r.relearn tripped).2
        (.inr ⟨learns, report.resolve_left tripped, (adopts_iff r _ tripped).2 rfl⟩)
      rw [applyReport_enter learns.sound tripped judged, if_pos hold]
      exact faultUnit_faults x u _ _ place
  moved st moves := by
    obtain ⟨sound, running, known⟩ := moves.plain
    rw [applyReport_enter sound running ((judgeReport_enter_iff _ r st running).2 (.inl moves)),
      if_neg (by simp [known])]
    exact changeTracker_leaves x u st
  released spin synchronized := by
    obtain ⟨enters, detaches⟩ := releaseThenChange_leaves u .pumpPrime (.refl x) rfl (.refl x)
    rw [applyReport_release (by simp [spin]) (by simp [synchronized])
      ((judgeReport_release_iff _ r).2 ⟨spin, synchronized⟩)]
    exact ⟨enters, detaches, ((frame_detachGranted x _).seq (frame_changeTracker _ u _ _ _)).mono (by decide)⟩
  mismatched sound known running refused still unreleased := by
    rw [applyReport_mismatch sound running (judgeReport_mismatch _ r sound known running refused still unreleased)]
    refine ⟨fun held => ?_, fun free st adopts => ?_⟩
    · rw [if_pos held]
      exact faultUnit_faults x u _ _ place
    · rw [if_neg (by simp [free]), (adopts_iff r st running).1 adopts]
      exact mismatchUnit_leaves x u r place

/-! ## The way of a reply (R137 to R139, R155, R158) -/

/-- A valid reply in a window is handed on with its station heard, and the window closes (R138, R139). -/
theorem lineReception_valid (s : State) (a : Nat) (advance expired : Bool) (f : Frame)
    (inWindow : s.InWindow a advance expired) (fits : f.payload.length ≤ Config.maxPayload)
    (src : f.src.toNat = a) (kind : f.kind ≠ kindCode .nil) :
    s.lineReception (some f) = ((s.heard a).classify .d f).closed a advance := by
  obtain ⟨runs, ⟨n, window⟩, began⟩ := inWindow
  have place : s.line.rx.getD s.receptionPlace = .inWindow := by
    rcases began with none | some
    · simp only [none, Option.getD_none, State.receptionPlace, window]
    · simp only [some, Option.getD_some]
  have received : s.lineReception (some f) = s.receiveD (some f) := by
    unfold State.lineReception
    split
    · contradiction
    · rfl
  have heard : (if s.endReception.tracked a = true then s.endReception.setMiss a 0 else s.endReception)
      = s.heard a := by
    rw [setMiss_eq, State.heard]
    have tracked : s.endReception.tracked a = s.tracked a := rfl
    rw [tracked]
    split <;> rfl
  have valid : frameFits f = true ∧ f.src.toNat = a := ⟨decide_eq_true fits, src⟩
  rw [received, State.receiveD]
  simp only [place, window, State.judgeReply, if_pos valid, State.handReply, heard, if_neg kind]
  exact closeWindow_eq_closed _ a advance

/-- A unit report reaches the tracker of the station it comes from (R158). -/
theorem classify_unitReport (s : State) (dest src : Byte) (p : List Byte) (u : UnitId)
    (station : src.toNat = unitNumber u) : s.classify .d ⟨dest, src, kindCode .unitReport, p⟩
      = s.countedD.consumeUnitReport u ⟨dest, src, kindCode .unitReport, p⟩ := by
  have reporting : reportingUnit .d ⟨dest, src, kindCode .unitReport, p⟩ = some u := by
    simp only [reportingUnit, kindOf_kindCode, station, unitOf_unitNumber]
  simp only [State.classify, reporting]
  rfl

theorem consumeUnitReport_malformed (s : State) (u : UnitId) (f : Frame) (h : ∀ r, ¬ ReportSays f.payload r) :
    s.consumeUnitReport u f = s.detectAt .frameKindUnknown f.src.toNat := by
  rw [State.consumeUnitReport, unitReportFields_eq_none _ h]
  rfl

theorem consumeUnitReport_says (s : State) (u : UnitId) (f : Frame) (r : UnitReport) (h : ReportSays f.payload r) :
    s.consumeUnitReport u f = State.walkAfter s ((s.recordReport u r).applyReport u r) := by
  rw [State.consumeUnitReport, (unitReportFields_eq_some_iff _ r).2 h]
  rfl

/-- Settles O33: the report goes from its window to the tracker, where its payload decides. -/
theorem unitReportMovesItsTracker : Obligations.UnitReportMovesItsTracker := by
  intro dest src p s u advance expired inWindow station fits place h
  have hears : h.ownHasPlace := place
  have replies : kindCode .unitReport ≠ kindCode .nil := by decide
  refine ⟨h.consumeUnitReport u ⟨dest, src, kindCode .unitReport, p⟩, ?_, fun malformed => ?_, fun r reported => ?_⟩
  · rw [← classify_unitReport _ dest src p u station]
    exact congrArg Outcome.next (lineReception_valid s _ advance expired _ inWindow fits station replies)
  · rw [consumeUnitReport_malformed h u _ malformed, station]
    exact detect_records h _ hears
  · exact ⟨_, consumeUnitReport_says h u _ r reported, applyReport_takes (h.recordReport u r) u r hears⟩

end Sys2Proof.Machine
end

section
/-! PROOFS. A converter report: its payload, what the record's state makes of it, and its way from the reply window to
the record (R118 to R122, R126, R130, R158; log entries 13, 20, 24). -/
namespace Sys2Proof.Machine
open Host

/-! ## The payload (R118, section 11.2) -/

/-- The reports of a converter, by their two bytes. -/
theorem convReportFields_eq (a b : Byte) : convReportFields [a, b] =
    if a = 0 ∧ b = 0 then some ⟨.idle, 0⟩
    else if a = 1 ∧ 1 ≤ b.toNat ∧ b.toNat ≤ 8 then some ⟨.attached, b.toNat⟩
    else if a = 2 ∧ 1 ≤ b.toNat ∧ b.toNat ≤ 8 then some ⟨.driving, b.toNat⟩
    else if a = 3 ∧ b.toNat ≤ 8 then some ⟨.fault, b.toNat⟩
    else none := by
  by_cases known : a.toNat < 4
  · have zero : b.toNat = 0 ↔ b = 0#8 := by bv_omega
    have codes : a = 0 ∨ a = 1 ∨ a = 2 ∨ a = 3 := by bv_omega
    rcases codes with rfl | rfl | rfl | rfl
    · by_cases unnamed : b = 0#8 <;> simp [convReportFields, ofCode, convModes, convPairing, zero, unnamed]
    all_goals simp [convReportFields, ofCode, convModes, convPairing]
  · have unknown : ofCode convModes a = none := List.getElem?_eq_none (Nat.le_of_not_lt known)
    have codes : a ≠ 0 ∧ a ≠ 1 ∧ a ≠ 2 ∧ a ≠ 3 := by bv_omega
    obtain ⟨not0, not1, not2, not3⟩ := codes
    simp only [convReportFields, unknown, not0, not1, not2, not3, false_and, if_false]

/-- The payloads that R118 pairs no state and unit for. -/
theorem convReportFields_eq_none (p : List Byte) (h : ∀ a b : Byte, p = [a, b] →
    ¬ (a = 0 ∧ b = 0 ∨ (a = 1 ∨ a = 2) ∧ 1 ≤ b.toNat ∧ b.toNat ≤ 8 ∨ a = 3 ∧ b.toNat ≤ 8)) :
    convReportFields p = none := by
  match p with
  | [] | [_] | _ :: _ :: _ :: _ => rfl
  | [a, b] =>
    have refused := h a b rfl
    rw [convReportFields_eq, if_neg (by tauto), if_neg (by tauto), if_neg (by tauto), if_neg (by tauto)]

theorem unitNumber_range (u : UnitId) : 1 ≤ unitNumber u ∧ unitNumber u ≤ 8 := ⟨Nat.succ_pos _, u.isLt⟩

theorem convReportFields_idle : convReportFields [0, 0] = some ⟨.idle, 0⟩ := rfl

theorem convReportFields_fault (b : Byte) (h : b.toNat ≤ 8) :
    convReportFields [3, b] = some ⟨.fault, b.toNat⟩ := by
  simp [convReportFields_eq, h]

theorem convReportFields_attached (b : Byte) (v : UnitId) (h : b.toNat = unitNumber v) :
    convReportFields [1, b] = some ⟨.attached, b.toNat⟩ := by
  simp [convReportFields_eq, h, unitNumber_range v]

theorem convReportFields_driving (b : Byte) (v : UnitId) (h : b.toNat = unitNumber v) :
    convReportFields [2, b] = some ⟨.driving, b.toNat⟩ := by
  simp [convReportFields_eq, h, unitNumber_range v]

/-! ## Changes of a record (R117, R119 to R122, R130) -/

theorem changeConv_leaves (x : State) (c : ConvId) (st : ConvState) :
    x.ConvEnters (x.changeConv c st) c st .noCause ∧ Unchanged [.convs] x (x.changeConv c st) :=
  ⟨changeConv_enters x c st .noCause, frame_changeConv x c st .noCause⟩

/-- A converter taken up without an order of the part (R119, R122). -/
theorem mismatchConv_leaves (x : State) (c : ConvId) (v : UnitId) (place : x.ownHasPlace) :
    x.ConvEnters (x.mismatchConv c v) c (.observed v) .noCause
      ∧ x.Records (x.mismatchConv c v) (detection .reportMismatch (convStation c))
      ∧ Unchanged [.convs, .errors, .port] x (x.mismatchConv c v) := by
  obtain ⟨enters, frame⟩ := changeConv_leaves x c (.observed v)
  exact ⟨enters.after (frame_told _ _ _), detectAt_records_after frame _ _ place, frame.seq (frame_told _ _ _)⟩

theorem observe_leaves (x : State) (c : ConvId) (v : UnitId) :
    (x.setConv c { x.conv c with state := .observed v }).conv c = { x.conv c with state := .observed v }
      ∧ (∀ j, j ≠ c → (x.setConv c { x.conv c with state := .observed v }).conv j = x.conv j)
      ∧ Unchanged [.convs] x (x.setConv c { x.conv c with state := .observed v }) :=
  ⟨State.setConv_conv _ _ _, fun _ hj => State.setConv_conv_ne _ _ hj.symm, frame_setConv x c _⟩

/-- An attach that completes in REMOTE (R120). -/
theorem completeAttach_remote (x : State) (c : ConvId) (v : UnitId) (remote : x.isRemote = true) :
    x.ConvEnters (x.completeAttach c v) c (.driving v) .noCause
      ∧ (x.completeAttach c v).line = (x.placeOrder (.unit v (.startPump c))).line
      ∧ Unchanged [.convs, .line] x (x.completeAttach c v) := by
  obtain ⟨enters, frame⟩ := changeConv_leaves x c (.driving v)
  have order := frame_placeOrder (x.changeConv c (.driving v)) (.unit v (.startPump c))
  rw [State.completeAttach, if_pos remote]
  exact ⟨enters.after order, (placeOrder_congr (.of_unchanged frame) _).line, frame.seq order⟩

/-- A start broken off outside REMOTE: DETACH, then STOP (R130). -/
theorem completeAttach_away (x : State) (c : ConvId) (v : UnitId) (attaching : (x.conv c).state = .attaching v)
    (away : x.isRemote = false) :
    x.ConvEnters (x.completeAttach c v) c (.detaching v) .noCause
      ∧ x.Enters (x.completeAttach c v) v .stopping none .noCause
      ∧ (x.completeAttach c v).line = ((x.placeOrder (.conv c .detach)).placeOrder (.unit v .stop)).line
      ∧ Unchanged [.convs, .line, .trackers, .queue, .solver] x (x.completeAttach c v) := by
  have detach : x.detachConv c = (x.placeOrder (.conv c .detach)).changeConv c (.detaching v) := by
    simp only [State.detachConv, attaching, ConvState.spinning]
  have order := frame_placeOrder x (.conv c .detach)
  obtain ⟨enters, changed⟩ := changeConv_leaves (x.placeOrder (.conv c .detach)) c (.detaching v)
  have detached : Unchanged [.line, .convs] x (x.detachConv c) := frame_detachConv x c
  have stop := frame_stopUnit (x.detachConv c) v
  have ordered : LineSees (x.placeOrder (.conv c .detach)) (x.detachConv c) := detach ▸ .of_unchanged changed
  rw [State.completeAttach, if_neg (by simp [away])]
  refine ⟨?_, (stopUnit_enters _ v).before (.of_unchanged (detached.mono (by decide))), ?_,
    (detached.seq stop).mono (by decide)⟩
  · exact (detach ▸ enters.before order : x.ConvEnters (x.detachConv c) c (.detaching v) .noCause).after stop
  · exact (stopUnit_line _ v).trans (ordered.ordersAlike.order _)

/-! ## A report applied (R118 to R122, R126, R130) -/

/-- A report of IDLE (R119 to R122). -/
theorem convIdle_takes (x : State) (c : ConvId) (v : UnitId) (place : x.ownHasPlace) :
    x.TakesConvReport (x.convIdle c) c .idle v where
  stays still := by rcases still with h | h <;> simp only [State.convIdle, h]
  fault _ _ := nofun
  idleFrees _ taken := by
    have frees : x.convIdle c = x.changeConv c .free := by
      rcases taken with h | h | ⟨u, h | h⟩ <;> simp only [State.convIdle, h]
    exact frees ▸ changeConv_leaves x c .free
  idleDrops _ u driving := by
    have drops : x.convIdle c = x.faultConv c .dropped := by simp only [State.convIdle, driving]
    exact drops ▸ faultConv_faults x c .dropped place
  idleKept _ kept := by rcases kept with h | ⟨u, h⟩ <;> simp only [State.convIdle, h]
  learned := nofun
  taken := nofun
  watched := nofun
  kept := nofun
  wrong := nofun
  attached := nofun

/-- A report of FAULT (R118, R126). -/
theorem convFault_takes (x : State) (c : ConvId) (v : UnitId) (place : x.ownHasPlace) :
    x.TakesConvReport (x.convFault c) c .fault v where
  stays still := by rcases still with h | h <;> simp only [State.convFault, h]
  fault fitted sound _ := by
    have faults : x.convFault c = x.faultConv c .reported := by
      unfold State.convFault
      split
      · contradiction
      · contradiction
      · rfl
    exact faults ▸ faultConv_faults x c .reported place
  idleFrees := nofun
  idleDrops := nofun
  idleKept := nofun
  learned := nofun
  taken := nofun
  watched := nofun
  kept := nofun
  wrong := nofun
  attached := nofun

/-- A report of ATTACHED or DRIVING (R119 to R122, R130). -/
theorem convAttached_takes (x : State) (c : ConvId) (m : ConvMode) (v : UnitId) (mode : m = .attached ∨ m = .driving)
    (place : x.ownHasPlace) : x.TakesConvReport (x.convAttached c v) c m v where
  stays still := by rcases still with h | h <;> simp only [State.convAttached, h]
  fault _ _ is := by rcases mode with rfl | rfl <;> cases is
  idleFrees is := by rcases mode with rfl | rfl <;> cases is
  idleDrops is := by rcases mode with rfl | rfl <;> cases is
  idleKept is := by rcases mode with rfl | rfl <;> cases is
  learned _ known := by
    have learns : x.convAttached c v = x.changeConv c (.observed v) := by
      rcases known with h | h <;> simp only [State.convAttached, h]
    exact learns ▸ changeConv_leaves x c (.observed v)
  taken _ known := by
    have mismatches : x.convAttached c v = x.mismatchConv c v := by
      rcases known with h | ⟨u, h, other⟩
      · simp only [State.convAttached, h]
      · simp only [State.convAttached, h, if_neg other]
    exact mismatches ▸ mismatchConv_leaves x c v place
  watched _ u observed := by
    have moves : x.convAttached c v = x.setConv c { x.conv c with state := .observed v } := by
      simp only [State.convAttached, observed]
    exact moves ▸ observe_leaves x c v
  kept _ known := by rcases known with h | h <;> simp only [State.convAttached, h, if_true]
  wrong _ u other known := by
    have faults : x.convAttached c v = x.faultConv c .wrongUnit := by
      rcases known with h | h <;> simp only [State.convAttached, h, if_neg other]
    exact faults ▸ faultConv_faults x c .wrongUnit place
  attached _ attaching := by
    have completes : x.convAttached c v = x.completeAttach c v := by
      simp only [State.convAttached, attaching, if_true]
    rw [completes]
    exact ⟨completeAttach_remote x c v, completeAttach_away x c v attaching⟩

/-! ## The way of a reply (R158) -/

/-- A converter report reaches the record of the station it comes from (R158). -/
theorem classify_converterReport (s : State) (dest src : Byte) (p : List Byte) (c : ConvId)
    (station : src.toNat = convStation c) : s.classify .d ⟨dest, src, kindCode .converterReport, p⟩
      = s.countedD.consumeConvReport c ⟨dest, src, kindCode .converterReport, p⟩ := by
  have noUnit : reportingUnit .d ⟨dest, src, kindCode .converterReport, p⟩ = none := by
    simp only [reportingUnit, kindOf_kindCode]
  have found : allConvs.find? (fun d => convStation d == convStation c) = some c := by
    fin_cases c <;> rfl
  have reporting : reportingConv .d ⟨dest, src, kindCode .converterReport, p⟩ = some c := by
    simp only [reportingConv, kindOf_kindCode, station, found]
  simp only [State.classify, noUnit, reporting]
  rfl

theorem consumeConvReport_malformed (s : State) (c : ConvId) (f : Frame) (h : convReportFields f.payload = none) :
    s.consumeConvReport c f = s.detectAt .frameKindUnknown f.src.toNat := by
  rw [State.consumeConvReport, h]
  rfl

theorem consumeConvReport_fields (s : State) (c : ConvId) (f : Frame) (r : ConvReport)
    (h : convReportFields f.payload = some r) :
    s.consumeConvReport c f = State.walkAfter s (s.takeConvReport c r) := by
  rw [State.consumeConvReport, h]

/-- A report that names a machine reaches the rule for ATTACHED and DRIVING (R118). -/
theorem takeConvReport_names (s : State) (c : ConvId) (m : ConvMode) (n : Nat) (v : UnitId)
    (mode : m = .attached ∨ m = .driving) (names : n = unitNumber v) :
    s.takeConvReport c ⟨m, n⟩ = (s.recordConvReport c ⟨m, n⟩).convAttached c v := by
  subst names
  rcases mode with rfl | rfl <;> simp only [State.takeConvReport, unitOf_unitNumber]

/-- Settles O34: the report goes from its window to the record, where its state and its payload decide. -/
theorem converterReportMovesItsRecord : Obligations.ConverterReportMovesItsRecord := by
  intro dest src p s c advance expired inWindow station fits place h recorded
  have hears : h.ownHasPlace := place
  have replies : kindCode .converterReport ≠ kindCode .nil := by decide
  let f : Frame := ⟨dest, src, kindCode .converterReport, p⟩
  have applied (r : ConvReport) (fields : convReportFields p = some r) :
      h.consumeConvReport c f = State.walkAfter h (h.takeConvReport c r) := consumeConvReport_fields h c f r fields
  have named (m : ConvMode) (mode : m = .attached ∨ m = .driving) (b : Byte) (v : UnitId)
      (names : b.toNat = unitNumber v) (fields : convReportFields p = some ⟨m, b.toNat⟩) :
      ∃ z, h.consumeConvReport c f = State.walkAfter h z ∧ (recorded m b.toNat).TakesConvReport z c m v :=
    ⟨_, (applied _ fields).trans (congrArg _ (takeConvReport_names h c m _ v mode names)),
      convAttached_takes (recorded m b.toNat) c m v mode hears⟩
  refine ⟨h.consumeConvReport c f, ?_, fun malformed => ?_, fun idle => ?_, fun b v names => ⟨fun attached => ?_,
    fun driving => ?_⟩, fun b small fault => ?_⟩
  · rw [← classify_converterReport _ dest src p c station]
    exact congrArg Outcome.next (lineReception_valid s _ advance expired f inWindow fits station replies)
  · rw [consumeConvReport_malformed h c f (convReportFields_eq_none p malformed), station]
    exact detect_records h _ hears
  · exact ⟨_, applied ⟨.idle, 0⟩ (idle ▸ convReportFields_idle),
      fun v => convIdle_takes (recorded .idle 0) c v hears⟩
  · exact named .attached (.inl rfl) b v names (attached ▸ convReportFields_attached b v names)
  · exact named .driving (.inr rfl) b v names (driving ▸ convReportFields_driving b v names)
  · exact ⟨_, applied ⟨.fault, b.toNat⟩ (fault ▸ convReportFields_fault b small),
      fun v => convFault_takes (recorded .fault b.toNat) c v hears⟩

end Sys2Proof.Machine
end

section
/-! PROOFS. The queues of every step; the admission walk: how it judges an entry, what a start does, and what a whole
walk leaves (R108 to R114, R134, R136, R163, R164, R166). -/
namespace Sys2Proof.Machine

/-- Settles O6: every command keeps the queues within their sizes and their places single. -/
theorem stepKeepsQueuesBounded : Obligations.StepKeepsQueuesBounded :=
  fun _ _ bounded run => (safe_step run).queues bounded

/-! ## The first of a kind in ascending order -/

theorem find?_ascending {n : Nat} {l : List (Fin n)} (sorted : l.Pairwise (· < ·)) (all : ∀ a, a ∈ l)
    (p : Fin n → Bool) (v : Fin n) : l.find? p = some v ↔ p v = true ∧ ∀ w < v, p w = false := by
  have first (u : Fin n) (found : l.find? p = some u) : p u = true ∧ ∀ w < u, p w = false := by
    obtain ⟨is, before, after, rfl, none⟩ := List.find?_eq_some_iff_append.1 found
    refine ⟨is, fun w below => ?_⟩
    rcases List.mem_append.1 (all w) with earlier | later
    · simpa using none w earlier
    · rcases List.mem_cons.1 later with rfl | later
      · exact absurd below (lt_irrefl w)
      · have above := (List.pairwise_cons.1 (List.pairwise_append.1 sorted).2.1).1 w later
        exact absurd below above.asymm
  refine ⟨first v, fun ⟨is, least⟩ => ?_⟩
  cases found : l.find? p with
  | none => exact absurd is (List.find?_eq_none.1 found v (all v))
  | some u =>
    obtain ⟨has, below⟩ := first u found
    rcases lt_trichotomy u v with less | rfl | more
    · rw [least u less] at has
      cases has
    · rfl
    · rw [below v more] at is
      cases is

/-! ## The two tests of an entry (R112) -/

theorem mem_allConvs (c : ConvId) : c ∈ allConvs := by
  fin_cases c <;> decide

theorem holdsGroup_iff (st : TState) :
    st.holdsGroup = true ↔ st ∈ [TState.genStart, .pumpSpin, .pumpPrime, .changeover, .observed] := by
  cases st <;> decide

section
open Classical

/-- The machine named by an interlock hold is the first one that holds another back. -/
theorem interlockHolder_eq (s : State) (u : UnitId) :
    s.interlockHolder u = allUnits.find? (fun v => decide (s.HoldsBack v u)) := by
  cases record : s.unit u with
  | none => simp [State.interlockHolder, record, State.HoldsBack, @eq_comm _ none]
  | some r =>
    by_cases interlock : (s.table.groups.get r.group).interlock = true
    · simp only [State.interlockHolder, record, if_pos interlock]
      refine congrArg (fun p => allUnits.find? p) (funext fun v => Bool.eq_iff_iff.2 ?_)
      simp only [Bool.and_eq_true, bne_iff_ne, State.inGroup, Option.any_eq_true, beq_iff_eq, holdsGroup_iff,
        State.HoldsBack, record, decide_eq_true_eq]
      constructor
      · rintro ⟨⟨other, q, holder, group⟩, state⟩
        exact ⟨other, r, q, rfl, holder, group, interlock, state⟩
      · rintro ⟨other, _, q, same, holder, group, -, state⟩
        cases same
        exact ⟨⟨other, q, holder, group⟩, state⟩
    · simp [State.interlockHolder, record, State.HoldsBack, interlock, @eq_comm _ none]

/-- The converter that a pump start is granted is the first one that it can be granted. -/
theorem freeConv_eq (s : State) (u : UnitId) :
    s.freeConv u = allConvs.find? (fun c => decide (s.CanGrant u c)) := by
  have reaches (r : UnitRecord) (c : ConvId) : r.reaches c = if c = 0 then r.reach1 else r.reach2 := by
    fin_cases c <;> rfl
  cases record : s.unit u with
  | none => simp [State.freeConv, record, State.CanGrant, @eq_comm _ none]
  | some r =>
    simp only [State.freeConv, record]
    refine congrArg (fun p => allConvs.find? p) (funext fun c => Bool.eq_iff_iff.2 ?_)
    simp [reaches, State.CanGrant, record, and_comm]

theorem interlockHolder_eq_some (s : State) (u v : UnitId) : s.interlockHolder u = some v ↔
    s.HoldsBack v u ∧ ∀ w < v, ¬ s.HoldsBack w u := by
  rw [interlockHolder_eq, find?_ascending (by decide) mem_allUnits]
  simp

theorem interlockHolder_eq_none (s : State) (u : UnitId) :
    s.interlockHolder u = none ↔ ∀ v, ¬ s.HoldsBack v u := by
  simp [interlockHolder_eq, mem_allUnits]

theorem freeConv_eq_some (s : State) (u : UnitId) (c : ConvId) : s.freeConv u = some c ↔
    s.CanGrant u c ∧ ∀ j < c, ¬ s.CanGrant u j := by
  rw [freeConv_eq, find?_ascending (by decide) mem_allConvs]
  simp

theorem freeConv_eq_none (s : State) (u : UnitId) : s.freeConv u = none ↔ ∀ c, ¬ s.CanGrant u c := by
  simp [freeConv_eq, mem_allConvs]

end

theorem judgeEntry_start_iff (s : State) (e : Entry) : s.judgeEntry e = .start ↔ s.MayStart e := by
  unfold State.judgeEntry State.MayStart
  rw [← interlockHolder_eq_none]
  cases s.interlockHolder e.unit with
  | some v => simp
  | none =>
    have grant := (freeConv_eq_none s e.unit).not
    simp only [not_forall, not_not] at grant
    simp only [← grant]
    by_cases pump : e.kind = .startPump <;> by_cases free : s.freeConv e.unit = none <;> simp [pump, free]

theorem judgeEntry_pass (s : State) (e : Entry) (r : HoldReason) (b : Option UnitId)
    (judged : s.judgeEntry e = .pass r b) : s.PassesOver { e with reason := r, blocking := b } := by
  unfold State.judgeEntry at judged
  split at judged
  · rename_i v held
    cases judged
    obtain ⟨holds, least⟩ := (interlockHolder_eq_some s _ v).1 held
    exact .inl ⟨v, holds, least, rfl, rfl⟩
  · rename_i free
    split at judged
    · rename_i pump
      cases judged
      exact .inr ⟨(interlockHolder_eq_none s _).1 free, pump.1, (freeConv_eq_none s _).1 pump.2, rfl, rfl⟩
    · cases judged

/-! ## An entry passed over (R108, R111) -/

/-- An entry with the hold that a walk gives it; one that may start keeps its own. -/
def State.passedOver (s : State) (e : Entry) : Entry :=
  match s.judgeEntry e with
  | .start => e
  | .pass reason blocking => { e with reason := reason, blocking := blocking }

/-- A walk's judgement changes neither the machine of an entry nor its kind and time. -/
theorem passedOver_key (s : State) (e : Entry) : (s.passedOver e).unit = e.unit ∧ (s.passedOver e).kind = e.kind
    ∧ (s.passedOver e).enqueued = e.enqueued := by
  unfold State.passedOver
  split <;> exact ⟨rfl, rfl, rfl⟩

theorem judgeEntry_held {s : State} {e : Entry} (held : ¬ s.MayStart e) : ∃ r b, s.judgeEntry e = .pass r b := by
  rw [← judgeEntry_start_iff] at held
  cases judged : s.judgeEntry e with
  | start => exact absurd judged held
  | pass r b => exact ⟨r, b, rfl⟩

theorem passedOver_passes {s : State} {e : Entry} (held : ¬ s.MayStart e) : s.PassesOver (s.passedOver e) := by
  obtain ⟨r, b, judged⟩ := judgeEntry_held held
  simp only [State.passedOver, judged]
  exact judgeEntry_pass s e r b judged

/-- A new judgement replaces the hold that an earlier walk gave. -/
theorem passedOver_again (s : State) {x : State} {e : Entry} (held : ¬ x.MayStart e) :
    x.passedOver (s.passedOver e) = x.passedOver e := by
  obtain ⟨r, b, judged⟩ := judgeEntry_held held
  have again (r' : HoldReason) (b' : Option UnitId) :
      x.judgeEntry { e with reason := r', blocking := b' } = .pass r b := judged
  cases earlier : s.judgeEntry e with
  | start => simp only [State.passedOver, earlier]
  | pass r' b' => simp only [State.passedOver, earlier, again]

theorem mayStart_passedOver (s x : State) (e : Entry) : x.MayStart (s.passedOver e) ↔ x.MayStart e := by
  obtain ⟨unit, kind, -⟩ := passedOver_key s e
  simp only [State.MayStart, unit, kind]

/-! ## The judgement of a whole queue (R111) -/

theorem walkScan_start {s : State} {e : Entry} (may : s.MayStart e) (rest : List Entry) :
    s.walkScan (e :: rest) = (e :: rest, some e) := by
  simp only [State.walkScan, (judgeEntry_start_iff s e).2 may]

theorem walkScan_pass {s : State} {e : Entry} (held : ¬ s.MayStart e) (rest : List Entry) :
    s.walkScan (e :: rest) = (s.passedOver e :: (s.walkScan rest).1, (s.walkScan rest).2) := by
  obtain ⟨r, b, judged⟩ := judgeEntry_held held
  simp only [State.walkScan, State.passedOver, judged]

theorem walkScan_append (s : State) (before rest : List Entry) (held : ∀ q ∈ before, ¬ s.MayStart q) :
    s.walkScan (before ++ rest) = (before.map s.passedOver ++ (s.walkScan rest).1, (s.walkScan rest).2) := by
  induction before with
  | nil => rfl
  | cons q before ih =>
    obtain ⟨first, others⟩ := List.forall_mem_cons.1 held
    rw [List.cons_append, walkScan_pass first, ih others]
    rfl

theorem walkScan_first (s : State) (before later : List Entry) (e : Entry) (held : ∀ q ∈ before, ¬ s.MayStart q)
    (may : s.MayStart e) :
    s.walkScan (before ++ e :: later) = (before.map s.passedOver ++ e :: later, some e) := by
  rw [walkScan_append s before _ held, walkScan_start may]

theorem walkScan_held (s : State) (q : List Entry) (held : ∀ e ∈ q, ¬ s.MayStart e) :
    s.walkScan q = (q.map s.passedOver, none) := by
  simpa [State.walkScan] using walkScan_append s q [] held

/-- The holds that an earlier walk gave are not read. -/
theorem walkScan_again (s x : State) (before rest : List Entry) (held : ∀ q ∈ before, ¬ x.MayStart q) :
    x.walkScan (before.map s.passedOver ++ rest) = x.walkScan (before ++ rest) := by
  have relabelled : ∀ q ∈ before.map s.passedOver, ¬ x.MayStart q := by
    simpa only [List.forall_mem_map, mayStart_passedOver] using held
  rw [walkScan_append x _ rest relabelled, walkScan_append x before rest held, List.map_map]
  refine congrArg (fun l => (l ++ (x.walkScan rest).1, (x.walkScan rest).2)) ?_
  exact List.map_congr_left fun q hq => passedOver_again s (held q hq)

theorem walkScan_setQueue (s : State) (q l : List Entry) : (s.setQueue q).walkScan l = s.walkScan l := by
  induction l with
  | nil => rfl
  | cons e rest ih =>
    simp only [State.walkScan, ih]
    rfl

/-! ## One round of the walk (R111) -/

theorem walkLoop_none {s : State} {q : List Entry} (scan : s.walkScan s.queue = (q, none)) (n : Nat) :
    walkLoop (n + 1) s = (s.setQueue q, 0) := by
  simp only [walkLoop, scan]

theorem walkLoop_some {s : State} {q : List Entry} {e : Entry} (scan : s.walkScan s.queue = (q, some e)) (n : Nat) :
    walkLoop (n + 1) s
      = ((walkLoop n ((s.setQueue q).startEntry e)).1, (walkLoop n ((s.setQueue q).startEntry e)).2 + 1) := by
  simp only [walkLoop, scan]

/-- A walk reads the queue by its judgement alone. -/
theorem walkLoop_congr (x : State) {q l : List Entry} (same : x.walkScan q = x.walkScan l) (n : Nat) :
    walkLoop (n + 1) (x.setQueue q) = walkLoop (n + 1) (x.setQueue l) := by
  have scanned (a : List Entry) : (x.setQueue a).walkScan (x.setQueue a).queue = x.walkScan a :=
    walkScan_setQueue x a a
  rcases scan : x.walkScan l with ⟨judged, found⟩
  cases found with
  | none =>
    rw [walkLoop_none ((scanned q).trans (same.trans scan)), walkLoop_none ((scanned l).trans scan)]
    rfl
  | some e =>
    rw [walkLoop_some ((scanned q).trans (same.trans scan)), walkLoop_some ((scanned l).trans scan)]
    rfl

/-! ## The start of an entry (R113, R114) -/

/-- A machine whose entry is withdrawn and whose order is placed moves: its tracker alone changes, and the queue
loses its entries. -/
theorem withdrawn_moves (s w : State) (u : UnitId) (st : TState) (g : Option ConvId)
    (frame : Unchanged [.line, .convs] (s.withdrawEntry u) w) :
    (w.moveTracker u st g .noCause).queue = s.queue.filter (fun q => q.unit != u)
      ∧ (w.moveTracker u st g .noCause).tracker u = (s.tracker u).enter s.now (s.unit u) st g .noCause
      ∧ (∀ v, v ≠ u → (w.moveTracker u st g .noCause).tracker v = s.tracker v)
      ∧ Unchanged [.trackers, .queue, .line, .convs] s (w.moveTracker u st g .noCause) := by
  have queue : w.queue = s.queue.filter (fun q => q.unit != u) := frame .queue (by decide)
  have trackers : w.trackers = s.trackers := frame .trackers (by decide)
  have errors : w.errors = s.errors := frame .errors (by decide)
  have table : w.table = s.table := frame .table (by decide)
  have kept (old : TState) (q : Entry) : (!q.lostOnLeaving u old && q.unit != u) = (q.unit != u) := by
    by_cases same : q.unit = u <;> simp [Entry.lostOnLeaving, same]
  have moved := frame_moveTracker w u st g .noCause
  refine ⟨?_, ?_, fun v other => ?_,
    (((frame_withdrawEntry s u).seq frame).seq moved).mono (by decide)⟩
  · simp only [State.moveTracker, State.setQueue_queue, queue, List.filter_filter, kept]
  · have entered : (w.moveTracker u st g .noCause).tracker u = (w.tracker u).enter w.now (w.unit u) st g .noCause :=
      State.setTracker_tracker w u _
    simpa only [State.tracker, State.now, State.unit, trackers, errors, table] using entered
  · have left : (w.moveTracker u st g .noCause).tracker v = w.tracker v :=
      State.setTracker_tracker_ne w _ other.symm
    simpa only [State.tracker, trackers] using left

/-- The two starts without a converter: the order, and the state that the machine enters (R113). -/
theorem startEntry_plain (s : State) (e : Entry) (st : TState) (k : UnitOrder)
    (kind : (e.kind, st, k) ∈ [(EntryKind.startGen, TState.genStart, UnitOrder.startGen),
      (.changeover, .changeover, .changeover)]) :
    s.startEntry e
      = ((s.withdrawEntry e.unit).placeOrder (.unit e.unit k)).moveTracker e.unit st none .noCause := by
  simp only [List.mem_cons, Prod.mk.injEq, List.not_mem_nil, or_false] at kind
  rcases kind with ⟨kind, rfl, rfl⟩ | ⟨kind, rfl, rfl⟩ <;> simp only [State.startEntry, kind]

theorem startEntry_pump (s : State) (e : Entry) (c : ConvId) (kind : e.kind = .startPump)
    (free : s.freeConv e.unit = some c) : s.startEntry e
      = ((s.withdrawEntry e.unit).grant e.unit c).moveTracker e.unit .pumpSpin (some c) .noCause := by
  simp only [State.startEntry, kind, free]

/-- The kind of an entry that may start, with what its start needs. -/
theorem State.MayStart.kinds {s : State} {e : Entry} (may : s.MayStart e) :
    (∃ st k, (e.kind, st, k) ∈ [(EntryKind.startGen, TState.genStart, UnitOrder.startGen),
        (.changeover, .changeover, .changeover)])
      ∨ e.kind = .startPump ∧ ∃ c, s.CanGrant e.unit c ∧ ∀ j < c, ¬ s.CanGrant e.unit j := by
  cases kind : e.kind with
  | startGen => exact .inl ⟨_, _, .head _⟩
  | changeover => exact .inl ⟨_, _, .tail _ (.head _)⟩
  | startPump =>
    cases free : s.freeConv e.unit with
    | none =>
      obtain ⟨c, grant⟩ := may.2 kind
      exact absurd grant ((freeConv_eq_none s e.unit).1 free c)
    | some c => exact .inr ⟨rfl, c, (freeConv_eq_some s e.unit c).1 free⟩

theorem startEntry_starts (s : State) (e : Entry) (may : s.MayStart e) : s.Starts (s.startEntry e) e := by
  have taken := frame_withdrawEntry s e.unit
  rcases may.kinds with ⟨st, k, kind⟩ | ⟨kind, c, grant⟩
  · have order := frame_placeOrder (s.withdrawEntry e.unit) (.unit e.unit k)
    obtain ⟨queue, tracker, others, unchanged⟩ := withdrawn_moves s _ e.unit st none (order.mono (by decide))
    rw [startEntry_plain s e st k kind]
    refine ⟨queue, others, fun st' k' kind' => ?_, fun pump => ?_, unchanged⟩
    · obtain ⟨rfl, rfl⟩ : st' = st ∧ k' = k := by
        simp only [List.mem_cons, Prod.mk.injEq, List.not_mem_nil, or_false] at kind kind'
        rcases kind with ⟨kind, rfl, rfl⟩ | ⟨kind, rfl, rfl⟩ <;> simpa [kind] using kind'
      exact ⟨tracker, (placeOrder_congr (.of_unchanged taken) _).line, (taken.seq order) .convs (by decide)⟩
    · simp [pump] at kind
  · have order := frame_placeOrder (s.withdrawEntry e.unit) (.conv c (.attach e.unit))
    obtain ⟨queue, tracker, others, unchanged⟩ :=
      withdrawn_moves s _ e.unit .pumpSpin (some c) (frame_grant (s.withdrawEntry e.unit) e.unit c)
    rw [startEntry_pump s e c kind ((freeConv_eq_some s e.unit c).2 grant)]
    refine ⟨queue, others, fun st k plain => ?_, fun _ c' grant' least' => ?_, unchanged⟩
    · simp [kind] at plain
    · obtain rfl : c = c' := Option.some.inj
        (((freeConv_eq_some s e.unit c).2 grant).symm.trans ((freeConv_eq_some s e.unit c').2 ⟨grant', least'⟩))
      obtain ⟨record, rest⟩ := (changeConv_enters _ c (.attaching e.unit) .noCause).before (taken.seq order)
      refine ⟨tracker, (placeOrder_congr (.of_unchanged taken) _).line, ?_, rest⟩
      exact record.trans (by simp)

/-- The start of an entry does not read the start queue: from another one it goes the same. -/
theorem State.Starts.requeued {s x : State} {q : List Entry} {e : Entry} (h : (s.setQueue q).Starts x e) :
    s.Starts (x.setQueue (s.queue.filter (fun r => r.unit != e.unit))) e := by
  have order (o : Order) : ((s.setQueue q).placeOrder o).line = (s.placeOrder o).line :=
    (placeOrder_congr (.of_unchanged (frame_setQueue s q)) o).line
  refine ⟨rfl, h.others, fun st k kind => ?_, fun kind c grant least => ?_,
    (((frame_setQueue s q).seq h.unchanged).seq (frame_setQueue x _)).mono (by decide)⟩
  · obtain ⟨tracker, line, convs⟩ := h.plain st k kind
    exact ⟨tracker, line.trans (order _), convs⟩
  · obtain ⟨tracker, line, convs⟩ := h.pump kind c grant least
    exact ⟨tracker, line.trans (order _), convs⟩

section
variable {s x : State} {e : Entry} (starts : s.Starts x e)
include starts

theorem State.Starts.isRemote : x.isRemote = s.isRemote := by
  have target : x.target = s.target := starts.unchanged .target (by decide)
  have inputs : x.inputs = s.inputs := starts.unchanged .inputs (by decide)
  simp only [State.isRemote, State.authority, target, inputs]

theorem State.Starts.unit (u : UnitId) : x.unit u = s.unit u := by
  have table : x.table = s.table := starts.unchanged .table (by decide)
  simp only [State.unit, table]

/-- With one entry for each machine, only the entry that starts leaves the queue. -/
theorem State.Starts.queue_split {before later : List Entry} (split : s.queue = before ++ e :: later)
    (single : (s.queue.map (fun q => q.unit)).Nodup) : x.queue = before ++ later := by
  rw [split, List.map_append, List.map_cons, List.nodup_middle, ← List.map_append, List.nodup_cons] at single
  have others : ∀ q ∈ before ++ later, (q.unit != e.unit) = true :=
    fun q hq => bne_iff_ne.2 fun same => single.1 (List.mem_map.2 ⟨q, hq, same⟩)
  rw [starts.queue, split, List.filter_append, List.filter_cons_of_neg (by simp), ← List.filter_append]
  exact List.filter_eq_self.2 others

theorem State.Starts.single (single : (s.queue.map (fun q => q.unit)).Nodup) :
    (x.queue.map (fun q => q.unit)).Nodup := by
  rw [starts.queue]
  exact single.sublist (List.filter_sublist.map _)

variable (may : s.MayStart e)
include may

/-- A machine that starts holds its group back. -/
theorem State.Starts.holds : (x.tracker e.unit).state ∈
    [TState.genStart, .pumpSpin, .pumpPrime, .changeover, .observed] := by
  rcases may.kinds with ⟨st, k, kind⟩ | ⟨kind, c, grant, least⟩
  · rw [(starts.plain st k kind).1]
    simp only [List.mem_cons, Prod.mk.injEq, List.not_mem_nil, or_false] at kind
    rcases kind with ⟨-, rfl, -⟩ | ⟨-, rfl, -⟩ <;> simp [Tracker.enter]
  · rw [(starts.pump kind c grant least).1]
    simp [Tracker.enter]

/-- A converter stays as it is, or is FREE and goes to ATTACHING. -/
theorem State.Starts.conv (j : ConvId) : x.conv j = s.conv j
    ∨ (s.conv j).state = .free ∧ (x.conv j).state = .attaching e.unit := by
  rcases may.kinds with ⟨st, k, kind⟩ | ⟨kind, c, grant, least⟩
  · exact .inl (congrArg (fun a => a.get j) (starts.plain st k kind).2.2)
  · obtain ⟨-, -, record, rest⟩ := starts.pump kind c grant least
    by_cases same : j = c
    · subst same
      exact .inr ⟨grant.1, by rw [record]⟩
    · exact .inl (rest j same)

/-- A converter that can be granted after a start could be granted before it, and is as it was. -/
theorem State.Starts.canGrant {u : UnitId} {c : ConvId} (grant : x.CanGrant u c) :
    s.CanGrant u c ∧ x.conv c = s.conv c := by
  obtain ⟨free, r, record, reach⟩ := grant
  rw [starts.unit] at record
  rcases starts.conv may c with same | ⟨-, attaching⟩
  · exact ⟨⟨same ▸ free, r, record, reach⟩, same⟩
  · rw [free] at attaching
    cases attaching

/-- No start gives way to an entry that was held (R111). -/
theorem State.Starts.mayStart {q : Entry} (after : x.MayStart q) : s.MayStart q := by
  obtain ⟨free, grant⟩ := after
  refine ⟨fun v ⟨other, r, p, record, holder, group, interlock, state⟩ => free v ?_, fun kind => ?_⟩
  · have table : x.table = s.table := starts.unchanged .table (by decide)
    refine ⟨other, r, p, (starts.unit _).trans record, (starts.unit _).trans holder, group,
      by rw [table, interlock], ?_⟩
    by_cases same : v = e.unit
    · exact same ▸ starts.holds may
    · rw [starts.others v same]
      exact state
  · obtain ⟨c, can⟩ := grant kind
    exact ⟨c, (starts.canGrant may can).1⟩

end

/-! ## The whole walk (R110, R111) -/

theorem admissionWalk_remote {s : State} (remote : s.isRemote = true) :
    s.admissionWalk = walkLoop (s.queue.length + 1) s := if_pos remote

theorem admissionWalk_away {s : State} (away : s.isRemote = false) : s.admissionWalk = (s, 0) :=
  if_neg (by simp [away])

theorem admissionWalk_held {s : State} (remote : s.isRemote = true) (held : ∀ e ∈ s.queue, ¬ s.MayStart e) :
    s.admissionWalk = (s.setQueue (s.queue.map s.passedOver), 0) :=
  (admissionWalk_remote remote).trans (walkLoop_none (walkScan_held s s.queue held) _)

/-- The oldest entry that may start does, and the walk goes on as one from the state which that leaves. -/
theorem admissionWalk_first {s : State} {before later : List Entry} {e : Entry} (remote : s.isRemote = true)
    (single : (s.queue.map (fun q => q.unit)).Nodup) (split : s.queue = before ++ e :: later)
    (held : ∀ q ∈ before, ¬ s.MayStart q) (may : s.MayStart e) :
    ∃ x, s.Starts x e ∧ s.admissionWalk = (x.admissionWalk.1, x.admissionWalk.2 + 1) := by
  let judged := before.map s.passedOver ++ e :: later
  let y := (s.setQueue judged).startEntry e
  let x := y.setQueue (s.queue.filter (fun r => r.unit != e.unit))
  have begun : (s.setQueue judged).Starts y e := startEntry_starts (s.setQueue judged) e may
  have starts : s.Starts x e := begun.requeued
  have units : judged.map (fun q => q.unit) = s.queue.map (fun q => q.unit) := by
    simp [judged, split, passedOver_key]
  have queueY : y.queue = before.map s.passedOver ++ later :=
    begun.queue_split (s := s.setQueue judged) rfl (units ▸ single)
  have queueX : x.queue = before ++ later := starts.queue_split split single
  have length : x.queue.length + 1 = s.queue.length := by
    simp only [queueX, split, List.length_append, List.length_cons]
    omega
  have still : ∀ q ∈ before, ¬ x.MayStart q := fun q hq after => held q hq (starts.mayStart may after)
  have same : walkLoop (x.queue.length + 1) y = walkLoop (x.queue.length + 1) x :=
    calc walkLoop (x.queue.length + 1) y
        = walkLoop (x.queue.length + 1) (x.setQueue (before.map s.passedOver ++ later)) := by
          rw [← queueY]
          rfl
      _ = walkLoop (x.queue.length + 1) (x.setQueue (before ++ later)) :=
          walkLoop_congr x (walkScan_again s x before later still) _
      _ = walkLoop (x.queue.length + 1) x := by rw [← queueX, State.setQueue_self]
  refine ⟨x, starts, ?_⟩
  have scan : s.walkScan s.queue = (judged, some e) := by
    rw [split]
    exact walkScan_first s before later e held may
  rw [admissionWalk_remote remote, admissionWalk_remote (starts.isRemote.trans remote), walkLoop_some scan, ← length,
    ← same]

/-- A walk by its starts: `w` is what it leaves of `s`, behind a number of starts. -/
inductive State.WalksTo : State → State → Nat → Prop where
  | held {s : State} (held : ∀ e ∈ s.queue, ¬ s.MayStart e) :
      s.WalksTo (s.setQueue (s.queue.map s.passedOver)) 0
  | start {s x w : State} {e : Entry} {n : Nat} (waits : e ∈ s.queue) (may : s.MayStart e) (starts : s.Starts x e)
      (rest : x.WalksTo w n) : s.WalksTo w (n + 1)

theorem State.Starts.length {s x : State} {e : Entry} (starts : s.Starts x e) (waits : e ∈ s.queue)
    (single : (s.queue.map (fun q => q.unit)).Nodup) : x.queue.length + 1 = s.queue.length := by
  obtain ⟨before, later, split⟩ := List.append_of_mem waits
  simp only [starts.queue_split split single, split, List.length_append, List.length_cons]
  omega

/-- The model's walk in REMOTE, said by its starts. -/
theorem admissionWalk_walksTo (s : State) (remote : s.isRemote = true)
    (single : (s.queue.map (fun q => q.unit)).Nodup) : s.WalksTo s.admissionWalk.1 s.admissionWalk.2 := by
  induction size : s.queue.length generalizing s with
  | zero =>
    have held : ∀ e ∈ s.queue, ¬ s.MayStart e := by simp [List.length_eq_zero_iff.1 size]
    rw [admissionWalk_held remote held]
    exact .held held
  | succ n ih =>
    cases found : s.queue.find? (fun e => s.judgeEntry e = .start) with
    | none =>
      have held : ∀ e ∈ s.queue, ¬ s.MayStart e := by
        simpa [judgeEntry_start_iff] using List.find?_eq_none.1 found
      rw [admissionWalk_held remote held]
      exact .held held
    | some e =>
      obtain ⟨may, before, later, split, passed⟩ := List.find?_eq_some_iff_append.1 found
      simp only [decide_eq_true_eq, judgeEntry_start_iff] at may
      have waits : e ∈ s.queue := List.mem_of_find?_eq_some found
      have held : ∀ q ∈ before, ¬ s.MayStart q := by simpa [judgeEntry_start_iff] using passed
      obtain ⟨x, starts, walk⟩ := admissionWalk_first remote single split held may
      have length := starts.length waits single
      rw [walk]
      exact .start waits may starts
        (ih x (starts.isRemote.trans remote) (starts.single single) (by omega))

/-! ## What a walk leaves (R110 to R114) -/

/-- Each entry that waits after a walk has the hold that R112 finds. -/
theorem State.WalksTo.passesOver {s w : State} {n : Nat} (walk : s.WalksTo w n) :
    ∀ e ∈ w.queue, w.PassesOver e := by
  induction walk with
  | @held s held =>
    rintro _ member
    obtain ⟨e, waits, rfl⟩ := List.mem_map.1 member
    exact passedOver_passes (held e waits)
  | start _ _ _ _ ih => exact ih

/-- The entries that wait after a walk are entries that waited before it, in their order. -/
theorem State.WalksTo.sublist {s w : State} {n : Nat} (walk : s.WalksTo w n) :
    (w.queue.map (fun e => (e.unit, e.kind, e.enqueued))).Sublist
      (s.queue.map (fun e => (e.unit, e.kind, e.enqueued))) := by
  induction walk with
  | held held => simp [passedOver_key, Function.comp_def]
  | start _ _ starts _ ih =>
    rw [starts.queue] at ih
    exact ih.trans (List.filter_sublist.map _)

theorem State.WalksTo.length {s w : State} {n : Nat} (walk : s.WalksTo w n)
    (single : (s.queue.map (fun e => e.unit)).Nodup) : w.queue.length + n = s.queue.length := by
  induction walk with
  | held held => simp
  | start waits _ starts _ ih =>
    have length := starts.length waits single
    have rest := ih (starts.single single)
    omega

/-- An entry that waits after a walk is one of a machine with an entry before it. -/
theorem State.WalksTo.waited {s w : State} {n : Nat} (walk : s.WalksTo w n) {q : Entry} (waits : q ∈ w.queue) :
    ∃ e ∈ s.queue, e.unit = q.unit := by
  obtain ⟨e, before, same⟩ := List.mem_map.1 (walk.sublist.subset (List.mem_map_of_mem waits))
  exact ⟨e, before, congrArg Prod.fst same⟩

/-- A machine whose entry starts has none left. -/
theorem State.Starts.gone {s x w : State} {e : Entry} {n : Nat} (starts : s.Starts x e) (rest : x.WalksTo w n) :
    ∀ q ∈ w.queue, q.unit ≠ e.unit := by
  intro q waits same
  obtain ⟨p, before, unit⟩ := rest.waited waits
  rw [starts.queue] at before
  simpa [unit.trans same] using (List.mem_filter.1 before).2

/-- A machine of which no entry has left keeps its tracker. -/
theorem State.WalksTo.tracker {s w : State} {n : Nat} (walk : s.WalksTo w n) (u : UnitId)
    (kept : ∀ e ∈ s.queue, e.unit = u → ∃ q ∈ w.queue, q.unit = u) : w.tracker u = s.tracker u := by
  induction walk with
  | held held => rfl
  | @start s x w e n waits _ starts rest ih =>
    have other : u ≠ e.unit := by
      rintro rfl
      obtain ⟨q, left, same⟩ := kept e waits rfl
      exact starts.gone rest q left same
    refine (ih fun q member => ?_).trans (starts.others u other)
    rw [starts.queue] at member
    exact kept q (List.mem_filter.1 member).1

/-- A converter that is not FREE keeps its record. -/
theorem State.WalksTo.conv {s w : State} {n : Nat} (walk : s.WalksTo w n) (c : ConvId)
    (taken : (s.conv c).state ≠ .free) : w.conv c = s.conv c := by
  induction walk with
  | held held => rfl
  | start _ may starts _ ih =>
    rcases starts.conv may c with same | ⟨free, -⟩
    · exact (ih (by rwa [same])).trans same
    · exact absurd free taken

/-- The machine of an entry that left has entered the start state of its kind, and the converter granted for a pump
start has gone to ATTACHING (R113, R114). -/
def State.Started (s w : State) (e : Entry) : Prop :=
  (e.kind = .startGen → w.tracker e.unit
      = (s.tracker e.unit).enter s.now (s.unit e.unit) .genStart none .noCause)
    ∧ (e.kind = .changeover → w.tracker e.unit
      = (s.tracker e.unit).enter s.now (s.unit e.unit) .changeover none .noCause)
    ∧ (e.kind = .startPump → ∃ c, s.CanGrant e.unit c
      ∧ w.tracker e.unit = (s.tracker e.unit).enter s.now (s.unit e.unit) .pumpSpin (some c) .noCause
      ∧ w.conv c = { s.conv c with
          state := .attaching e.unit, entryTime := s.now, cause := .noCause
          deadline := some (s.now + s.settings.attachTimeout) })

/-- What the start of an entry makes stands at the end of the walk. -/
theorem State.Starts.started {s x w : State} {e : Entry} {n : Nat} (starts : s.Starts x e) (may : s.MayStart e)
    (rest : x.WalksTo w n) : s.Started w e := by
  have tracker : w.tracker e.unit = x.tracker e.unit := rest.tracker e.unit fun q member same => by
    rw [starts.queue] at member
    simp [same] at member
  refine ⟨fun kind => ?_, fun kind => ?_, fun kind => ?_⟩
  · exact tracker.trans (starts.plain .genStart .startGen (by simp [kind])).1
  · exact tracker.trans (starts.plain .changeover .changeover (by simp [kind])).1
  · obtain ⟨st, k, plain⟩ | ⟨-, c, grant, least⟩ := may.kinds
    · simp [kind] at plain
    · obtain ⟨entered, -, record, -⟩ := starts.pump kind c grant least
      exact ⟨c, grant, tracker.trans entered, (rest.conv c (by simp [record])).trans record⟩

/-- What a later start finds is what the walk found. -/
theorem State.Started.before {s x w : State} {e q : Entry} (h : x.Started w q) (starts : s.Starts x e)
    (may : s.MayStart e) (other : q.unit ≠ e.unit) : s.Started w q := by
  have errors : x.errors = s.errors := starts.unchanged .errors (by decide)
  have settings : x.settings = s.settings := starts.unchanged .settings (by decide)
  obtain ⟨gen, changeover, pump⟩ := h
  simp only [starts.others q.unit other, starts.unit, State.now, errors, settings] at gen changeover pump
  refine ⟨gen, changeover, fun kind => ?_⟩
  obtain ⟨c, grant, entered, record⟩ := pump kind
  obtain ⟨could, same⟩ := starts.canGrant may grant
  exact ⟨c, could, entered, by rw [record, same]; rfl⟩

theorem State.WalksTo.started {s w : State} {n : Nat} (walk : s.WalksTo w n)
    (single : (s.queue.map (fun q => q.unit)).Nodup) (e : Entry) (waited : e ∈ s.queue)
    (left : ∀ q ∈ w.queue, q.unit ≠ e.unit) : s.Started w e := by
  induction walk with
  | @held s held => exact absurd (passedOver_key s e).1 (left _ (List.mem_map_of_mem waited))
  | @start s x w p n waits may starts rest ih =>
    by_cases same : e.unit = p.unit
    · obtain rfl : e = p := List.inj_on_of_nodup_map single waited waits same
      exact starts.started may rest
    · refine (ih (starts.single single) ?_ left).before starts may same
      rw [starts.queue]
      exact List.mem_filter.2 ⟨waited, by simpa using same⟩

/-! ## When a walk runs, and its triggers (R110, R111; log entry 8) -/

theorem transitional_iff (st : TState) :
    st.transitional = true ↔ st ∈ [TState.genStart, .pumpSpin, .pumpPrime, .changeover, .stopping] := by
  cases st <;> decide

theorem walkEvent_iff (before s : State) : walkEvent before s = true ↔
    (∃ u, (before.tracker u).state ∈ [TState.genStart, .pumpSpin, .pumpPrime, .changeover, .stopping]
        ∧ (s.tracker u).state ≠ (before.tracker u).state)
      ∨ (∃ c, (before.conv c).state ≠ .free ∧ (s.conv c).state = .free)
      ∨ before.isRemote = false ∧ s.isRemote = true := by
  simp [walkEvent, mem_allUnits, mem_allConvs, transitional_iff, and_comm, or_assoc]

/-- The triggers of the starts follow the walk. -/
theorem runWalk_eq (s : State) : s.runWalk
    = (fun y : State => y.fullTrigger .availability)^[s.admissionWalk.2] s.admissionWalk.1 :=
  fullTriggers_eq .availability _ _

/-- But for the solver a walk with its triggers leaves what the walk leaves. -/
theorem runWalk_setSolver (s : State) : ∃ v, s.runWalk = s.admissionWalk.1.setSolver v :=
  ⟨_, eq_setSolver_of_unchanged (frame_fullTriggers .availability s.admissionWalk.2 s.admissionWalk.1)⟩

/-- Settles O40: the walk in REMOTE is a chain of starts, by induction over which each clause follows. -/
theorem walkStartsEveryEligibleEntry : Obligations.WalkStartsEveryEligibleEntry := by
  intro s single t walked starts event
  obtain ⟨v, told⟩ : ∃ v, t = walked.setSolver v := runWalk_setSolver s
  refine ⟨fun before happens => if_pos ((walkEvent_iff before s).2 happens),
    fun before quiet => if_neg (quiet ∘ (walkEvent_iff before s).1), runWalk_eq s, admissionWalk_solver s, ?_,
    fun away => ?_, (frame_runWalk s).mono (by decide), fun remote => ?_⟩
  · cases remote : s.isRemote with
    | true => exact (admissionWalk_walksTo s remote single).length single
    | false => simp [walked, starts, admissionWalk_away remote]
  · simp [walked, starts, admissionWalk_away away]
  · have walk : s.WalksTo walked starts := admissionWalk_walksTo s remote single
    rw [told]
    refine ⟨fun before e later split held may => admissionWalk_first remote single split held may, fun held => ?_,
      walk.passesOver, walk.sublist, walk.tracker, walk.started single⟩
    simp only [walked, starts, admissionWalk_held remote held]
    exact ⟨trivial, frame_setQueue s _⟩

end Sys2Proof.Machine
end

section
/-! PROOFS. What the free unit line and the free transmitter choose, case by case; what an order and a forwarded frame
find on them, and the ends of transmission (R133, R134, R136, R137, R144, R149, R150, R162 to R165). -/
namespace Sys2Proof.Machine
open Host

/-- Settles O9: every command leaves both links busy while something waits. -/
theorem stepKeepsLinksBusy : Obligations.StepKeepsLinksBusy :=
  fun _ _ busy run => (safe_step run).links busy

/-! ## The choice of the unit line (R133, R144, R149) -/

theorem lineChoose_busy (s : State) (busy : s.line.activity ≠ .idle) : s.lineChoose = s := if_pos busy

theorem lineChoose_order (s : State) (q : QueuedOrder) (rest : List QueuedOrder) (free : s.line.activity = .idle)
    (orders : s.line.orders = q :: rest) : s.lineChoose = s.setLine { s.line with
      orders := rest, activity := .sending (.order q.order) (s.orderFrame q.order) } := by
  rw [State.lineChoose, if_neg (not_not.2 free), orders]

theorem lineChoose_forwarded (s : State) (f : Frame) (rest : List Frame) (free : s.line.activity = .idle)
    (orders : s.line.orders = []) (forwarded : s.line.forwardDown = f :: rest) :
    s.lineChoose = s.setLine { s.line with forwardDown := rest, activity := .sending .forwarded f } := by
  rw [State.lineChoose, if_neg (not_not.2 free), orders, forwarded]

theorem lineChoose_empty (s : State) (free : s.line.activity = .idle) (orders : s.line.orders = [])
    (forwarded : s.line.forwardDown = []) : s.lineChoose = s.choosePoll := by
  rw [State.lineChoose, if_neg (not_not.2 free), orders, forwarded]

/-- The four ways of the third step of R133. -/
theorem choosePoll_line (s : State) : s.choosePoll.line =
    if s.line.scan ≠ .running then s.line
    else if s.line.protection = .protect ∧ 16 ≤ s.port.forwardUp.length then { s.line with scan := .paused }
    else if s.line.scanMode = .step ∧ s.line.stepCredit = false then s.line
    else { s.line with
      activity := .sending (.poll s.line.nextAddr true)
        (mkFrame s.line.nextAddr s.settings.stationAddr .poll [])
      stepCredit := if s.line.scanMode = .step then false else s.line.stepCredit } := by
  simp only [State.choosePoll, apply_ite State.line]
  rfl

/-- Settles O2: the step on an empty queue is the line's choice. -/
theorem emptyQueueLetsTheFreeLineChoose : Obligations.EmptyQueueLetsTheFreeLineChoose := by
  intro s empty
  refine ⟨s.lineChoose, ?_, rfl, frame_lineChoose s, lineChoose_busy s, fun orders forwarded halted => ?_⟩
  · rw [step, empty]
  · by_cases free : s.line.activity = .idle
    · rw [lineChoose_empty s free orders forwarded]
      exact if_pos halted
    · exact lineChoose_busy s free

/-! ## Orders (R134, section 11.2) -/

/-- An order for a station that one waits for takes that one's place and its queued time (R134). -/
theorem insertOrder_waiting (now : Time) (o : Order) (q : QueuedOrder) (after : List QueuedOrder)
    (waits : q.order.station = o.station) (before : List QueuedOrder)
    (first : ∀ w ∈ before, w.order.station ≠ o.station) :
    insertOrder now o (before ++ q :: after) = before ++ ⟨o, q.queuedAt⟩ :: after := by
  induction before with
  | nil => exact if_pos waits
  | cons w rest ih =>
    obtain ⟨other, others⟩ := List.forall_mem_cons.1 first
    rw [List.cons_append, insertOrder, if_neg other, ih others, List.cons_append]

/-- Settles O38: the order queue decides the place, and the order alone its frame. -/
theorem orderReplacesInPlace : Obligations.OrderReplacesInPlace := by
  intro s o
  refine ⟨⟨insertOrder s.now o s.line.orders, rfl, fun unasked => ?_, fun before q after split waits first => ?_⟩,
    fun u k unit => ?_, fun c k conv => ?_⟩
  · refine insertOrder_new s.now o _ fun mem => ?_
    obtain ⟨q, waits, station⟩ := List.mem_map.1 mem
    exact unasked q waits station
  · rw [split]
    exact insertOrder_waiting s.now o q after waits before first
  · subst unit
    cases k <;> rfl
  · subst conv
    cases k <;> rfl

/-! ## The choice of the transmitter (R149, R165) -/

theorem txChoose_busy (s : State) (busy : s.port.tx ≠ none) : s.txChoose = s := by
  obtain ⟨x, sending⟩ := Option.ne_none_iff_exists'.1 busy
  rw [State.txChoose, sending]

theorem txChoose_own (s : State) (o : OwnFrame) (rest : List OwnFrame) (free : s.port.tx = none)
    (own : s.port.own = o :: rest) : s.txChoose = s.setPort { s.port with own := rest, tx := some o } := by
  rw [State.txChoose, free, own]

theorem txChoose_forwarded (s : State) (f : Frame) (rest : List Frame) (free : s.port.tx = none)
    (own : s.port.own = []) (forwarded : s.port.forwardUp = f :: rest) :
    s.txChoose = (s.setPort { s.port with forwardUp := rest, tx := some ⟨f, false⟩ }).resumeScan := by
  rw [State.txChoose, free, own, forwarded]

theorem txChoose_empty (s : State) (free : s.port.tx = none) (own : s.port.own = [])
    (forwarded : s.port.forwardUp = []) : s.txChoose = s := by
  rw [State.txChoose, free, own, forwarded]

/-- What the departure of a forwarded frame, which leaves the port `p`, makes of a PAUSED scan (R149, R165). -/
theorem resumeScan_departure (s : State) (p : DispatchPort) :
    (s.setPort p).resumeScan.port = p
      ∧ (s.line.scan ≠ .paused → Unchanged [.port] s (s.setPort p).resumeScan)
      ∧ (s.line.scan = .paused → Unchanged [.port, .line] s (s.setPort p).resumeScan
        ∧ (s.setPort p).resumeScan.line
          = ((s.setPort (s.setPort p).resumeScan.port).setLine { s.line with scan := .running }).lineChoose.line) := by
  have port : (s.setPort p).resumeScan.port = p := frame_resumeScan (s.setPort p) .port (by decide)
  refine ⟨port, fun running => ?_, fun paused => ⟨(frame_setPort s p).seq (frame_resumeScan _), ?_⟩⟩
  · have stays : (s.setPort p).resumeScan = s.setPort p := if_neg running
    rw [stays]
    exact frame_setPort s p
  · rw [port]
    exact congrArg State.line (if_pos paused)

/-! ## Forwarded frames (R136, R149, R150, R162, R163) -/

/-- A frame that joins the forward-down queue is counted, and the line chooses (R136). -/
theorem offerForwardDown_joins (s : State) (f : Frame) (place : s.line.forwardDown.length < 16) :
    s.offerForwardDown f = (s.setLine { s.line with forwardDown := s.line.forwardDown ++ [f] }).lineChoose.setPort
      { s.port with traffic :=
        { s.port.traffic with forwardedDown := satInc s.port.traffic.forwardedDown } } :=
  (if_pos place).trans (lineChoose_setPort (s.setLine _) _ rfl)

theorem offerForwardUp_joins (s : State) (f : Frame) (place : s.port.forwardUp.length < 16) :
    s.offerForwardUp f = s.joinForwardUp s.port.forwardUp f := if_pos place

theorem offerForwardUp_protect (s : State) (f : Frame) (full : 16 ≤ s.port.forwardUp.length)
    (mode : s.line.protection = .protect) : s.offerForwardUp f = s.detectAt .forwardLoss f.src.toNat := by
  have noPlace : ¬ s.port.forwardUp.length < Config.forwardQueueSize := Nat.not_lt.2 full
  rw [State.offerForwardUp, if_neg noPlace, mode]

theorem offerForwardUp_overwrite (s : State) (f : Frame) (full : 16 ≤ s.port.forwardUp.length)
    (mode : s.line.protection = .overwrite) : s.offerForwardUp f
      = (s.joinForwardUp s.port.forwardUp.tail f).detectAt .forwardLoss f.src.toNat := by
  have noPlace : ¬ s.port.forwardUp.length < Config.forwardQueueSize := Nat.not_lt.2 full
  rw [State.offerForwardUp, if_neg noPlace, mode, List.drop_one]

/-- The dispatch port with a frame behind the forwarded frames `waiting`, counted (R163, R169). -/
def DispatchPort.joined (p : DispatchPort) (waiting : List Frame) (f : Frame) : DispatchPort :=
  { p with
    forwardUp := waiting ++ [f]
    traffic := { p.traffic with forwardedUp := satInc p.traffic.forwardedUp } }

theorem joinForwardUp_eq (s : State) (waiting : List Frame) (f : Frame) :
    s.joinForwardUp waiting f = (s.setPort (s.port.joined waiting f)).txChoose := rfl

/-- A frame that joins behind a busy transmitter waits (R165). -/
theorem joinForwardUp_busy (s : State) (waiting : List Frame) (f : Frame) (busy : s.port.tx ≠ none) :
    s.joinForwardUp waiting f = s.setPort (s.port.joined waiting f) := txChoose_busy (s.setPort _) busy

/-- Settles O19: each queue has a place for the frame or has none, and behind a join the free link chooses. -/
theorem forwardedFramesQueueOrAreLost : Obligations.ForwardedFramesQueueOrAreLost := by
  intro s f
  refine ⟨fun place => ?_, fun full owns => ?_, fun place => ⟨fun busy => ?_, fun free o rest own => ?_,
    fun free own g rest head => ?_⟩, fun busy full mode owns => ?_, fun busy full mode owns => ?_⟩
  · have down : s.forwardFrame .u f = _ := offerForwardDown_joins s f place
    rw [down]
    exact ⟨rfl, rfl, (frame_lineFree s _).seq (frame_setPort _ _)⟩
  · have lost : s.forwardFrame .u f = s.detectAt .forwardLoss 0 := if_neg (Nat.not_lt.2 full)
    rw [lost]
    exact detect_records s _ owns
  · exact (offerForwardUp_joins s f place).trans (joinForwardUp_busy s _ f busy)
  · exact (offerForwardUp_joins s f place).trans (txChoose_own (s.setPort _) o rest free own)
  · have departs : s.forwardFrame .d f = (s.setPort { s.port.joined s.port.forwardUp f with
        forwardUp := rest, tx := some ⟨g, false⟩ }).resumeScan :=
      (offerForwardUp_joins s f place).trans (txChoose_forwarded (s.setPort _) g rest free own head)
    simp only [departs]
    exact resumeScan_departure s _
  · have lost : s.forwardFrame .d f = _ := offerForwardUp_protect s f full mode
    rw [lost]
    exact detect_records s _ owns
  · have lost : s.forwardFrame .d f = _ := offerForwardUp_overwrite s f full mode
    rw [lost, joinForwardUp_busy s _ f busy]
    obtain ⟨records, frame⟩ := detect_records (s.setPort (s.port.joined s.port.forwardUp.tail f))
      (detection .forwardLoss f.src.toNat) owns
    exact ⟨records, ((frame_setPort s _).seq frame).mono (by decide)⟩

/-! ## Ends of transmission (R133, R137, R165) -/

/-- The unit line is free behind an order or a forwarded frame, and chooses (R133). -/
theorem exec_unitLineTxEnd_free (s : State) (w : LineTx) (f : Frame) (runs : s.processing ≠ .deviceReset)
    (sends : s.line.activity = .sending w f) (noPoll : ∀ a advance, w ≠ .poll a advance) :
    exec .unitLineTxEnd s = .next (s.setLine { s.line with activity := .idle }).lineChoose := by
  refine congrArg Outcome.next ((whenRunning_of s _ runs).trans ?_)
  cases w with
  | order | forwarded => simp only [State.lineSent, sends]
  | poll a advance => exact absurd rfl (noPoll a advance)

theorem exec_pollTxEnd_window (s : State) (a : Nat) (advance : Bool) (f : Frame) (runs : s.processing ≠ .deviceReset)
    (polls : s.line.activity = .sending (.poll a advance) f) : exec .pollTxEnd s
      = .next (s.setLine { s.line with activity := .window a advance s.settings.pollTimeout false }) := by
  refine congrArg Outcome.next ((whenRunning_of s _ runs).trans ?_)
  simp only [State.pollSent, polls]

/-- The transmitter is free behind any frame but the reply to DEVICE_RESET, and chooses (R165). -/
theorem exec_dispatchTxEnd_free (s : State) (x : OwnFrame) (runs : s.processing ≠ .deviceReset)
    (sends : s.port.tx = some x) (noReset : x.resetReply = false) :
    exec .dispatchTxEnd s = .next (s.setPort { s.port with tx := none }).txChoose := by
  refine congrArg Outcome.next ((whenRunning_of s _ runs).trans ?_)
  simp only [State.dispatchSent, sends, noReset, Bool.false_eq_true, if_false]

/-- Settles O37: each end frees its link, whose choice is that of R133 or R165, or opens the window. -/
theorem endOfTransmissionChoosesTheNext : Obligations.EndOfTransmissionChoosesTheNext := by
  intro s runs
  refine ⟨fun w f sends noPoll => ?_, fun a advance f polls => ?_, fun x sends noReset => ?_⟩
  · let free := s.setLine { s.line with activity := .idle }
    refine ⟨_, exec_unitLineTxEnd_free s w f runs sends noPoll, frame_lineFree s _, fun q rest orders => ?_,
      fun g rest orders forwarded => ?_, fun orders forwarded => ?_⟩
    · exact congrArg State.line (lineChoose_order free q rest rfl orders)
    · exact congrArg State.line (lineChoose_forwarded free g rest rfl orders forwarded)
    · exact (congrArg State.line (lineChoose_empty free rfl orders forwarded)).trans (choosePoll_line free)
  · exact ⟨_, exec_pollTxEnd_window s a advance f runs polls, frame_setLine s _, rfl⟩
  · let free := s.setPort { s.port with tx := none }
    refine ⟨_, exec_dispatchTxEnd_free s x runs sends noReset, fun o rest own => ?_,
      fun f rest own forwarded => ?_, fun own forwarded => ?_⟩
    · rw [txChoose_own free o rest rfl own]
      exact ⟨rfl, frame_setPort s _⟩
    · rw [txChoose_forwarded free f rest rfl own forwarded]
      exact resumeScan_departure s _
    · rw [txChoose_empty free rfl own forwarded]
      exact ⟨rfl, frame_setPort s _⟩

end Sys2Proof.Machine
end

section
/-! PROOFS. Receptions on the unit line: where the classifier sends a frame that is no report, a valid reply in its
window, and every other reception (R137 to R140, R151, R155 to R157, R160, R161; log entry 6). -/
namespace Sys2Proof.Machine
open Host

/-! ## The table's action (R159 to R161) -/

theorem entryPort_takes_iff (e : EntryPort) (p : Port) :
    e.takes p = true ↔ e = .any ∨ e = .u ∧ p = .u ∨ e = .d ∧ p = .d := by
  cases e <;> cases p <;> decide

theorem kinds_all_iff (kinds : Option (List Nat)) (n : Nat) :
    kinds.all (fun l => l.contains n) = true ↔ ∀ codes, kinds = some codes → n ∈ codes := by
  cases kinds <;> simp

theorem matchesFrame_iff (e : ClassEntry) (p : Port) (f : Frame) : e.matchesFrame p f = true ↔ e.Takes p f := by
  simp only [ClassEntry.matchesFrame, ClassEntry.Takes, within, Bool.and_eq_true, Bool.not_eq_true',
    decide_eq_true_eq, ← Bool.not_eq_true, entryPort_takes_iff, kinds_all_iff, and_assoc]

/-- The first entry that takes the frame gives the action (R160). -/
theorem tableAction_entry (s : State) (p : Port) (f : Frame) (k : ClassId) (takes : (s.classes.get k).Takes p f)
    (first : ∀ j < k, ¬ (s.classes.get j).Takes p f) : s.tableAction p f = (s.classes.get k).action := by
  have found : s.classes.toList.find? (fun e => e.matchesFrame p f) = some (s.classes.get k) := by
    refine List.find?_eq_some_iff_getElem.2 ⟨(matchesFrame_iff _ p f).2 takes, k, by simp, rfl, fun j below => ?_⟩
    have earlier := first ⟨j, by omega⟩ below
    rw [← matchesFrame_iff, Bool.not_eq_true] at earlier
    exact congrArg not earlier
  rw [State.tableAction, found]

/-- A frame that no entry takes has the port's default action (R161). -/
theorem tableAction_default (s : State) (p : Port) (f : Frame) (untaken : ∀ k, ¬ (s.classes.get k).Takes p f) :
    s.tableAction p f = if p = .u then s.settings.defaultU else s.settings.defaultD := by
  have noEntry : s.classes.toList.find? (fun e => e.matchesFrame p f) = none := by
    refine List.find?_eq_none.2 fun e mem => ?_
    obtain ⟨k, below, rfl⟩ := List.getElem_of_mem mem
    rw [matchesFrame_iff]
    exact untaken ⟨k, by simpa using below⟩
  rw [State.tableAction, noEntry]
  cases p <;> rfl

/-- A counted frame that is no report goes by its destination (R155 to R157, R160, R161). -/
theorem classifyByDest_routes (x : State) (p : Port) (f : Frame) : x.Routes (x.classifyByDest p f) p f where
  ownU own port kind := by
    subst port
    have unknown : (fun y : State => if f.kind = kindCode .mgmtRequest then y.manage f.src f.payload
        else y.unknownKind .u f) = fun y => y.detectAt .frameKindUnknown 0 := funext fun _ => if_neg kind
    rw [State.classifyByDest, if_pos own]
    exact congrArg (x.consumeOwned .u f) unknown
  ownD own port := by
    subst port
    rw [State.classifyByDest, if_pos own]
    rfl
  broadcast other all := by
    rw [State.classifyByDest, if_neg other, if_pos all]
    rfl
  entry other single k takes first := by
    rw [State.classifyByDest, if_neg other, if_neg single, tableAction_entry x p f k takes first]
  default other single untaken := by
    rw [State.classifyByDest, if_neg other, if_neg single, tableAction_default x p f untaken]

/-! ## Frames that are no report of their station (R158) -/

theorem kindCode_of_kindOf {b : Byte} {k : FrameKind} (h : kindOf b = some k) : b = kindCode k :=
  (eq_of_beq (List.find?_some (p := fun k => kindCode k == b) h)).symm

theorem reportingUnit_eq_none (f : Frame)
    (h : f.kind = kindCode .unitReport → ∀ u, f.src.toNat ≠ unitNumber u) : reportingUnit .d f = none := by
  unfold reportingUnit
  split
  · rename_i report
    exact (unitOf_eq_none _).2 (h (kindCode_of_kindOf report))
  · rfl

theorem reportingConv_eq_none (f : Frame)
    (h : f.kind = kindCode .converterReport → ∀ c, f.src.toNat ≠ convStation c) : reportingConv .d f = none := by
  unfold reportingConv
  split
  · rename_i report
    refine List.find?_eq_none.2 fun c _ station => ?_
    exact h (kindCode_of_kindOf report) c (eq_of_beq station).symm
  · rfl

theorem classify_noReport (s : State) (f : Frame) (unit : reportingUnit .d f = none)
    (conv : reportingConv .d f = none) : s.classify .d f = s.countedD.classifyByDest .d f := by
  simp only [State.classify, unit, conv]
  rfl

/-! ## Where a reception falls (R137, R138, R140, R151) -/

theorem lineReception_running (s : State) (r : Option Frame) (runs : s.processing ≠ .deviceReset) :
    s.lineReception r = s.receiveD r := by
  unfold State.lineReception
  split
  · contradiction
  · rfl

theorem receiveD_uncounted (s : State) (r : Option Frame) (place : s.line.rx.getD s.receptionPlace = .uncounted) :
    s.receiveD r = s.endReception.afterInvalid := by
  simp only [State.receiveD, place]

theorem receiveD_stray (s : State) (r : Option Frame) (place : s.line.rx.getD s.receptionPlace = .stray) :
    s.receiveD r = (s.endReception.detectAt .dFrameCheck 0).afterInvalid := by
  simp only [State.receiveD, place]

theorem receiveD_window (s : State) (r : Option Frame) (a n : Nat) (advance expired : Bool)
    (place : s.line.rx.getD s.receptionPlace = .inWindow)
    (window : s.line.activity = .window a advance n expired) :
    s.receiveD r = s.endReception.judgeReply a advance r := by
  simp only [State.receiveD, place, window]

/-- A reception that began in a window which has closed since is a stray one. -/
theorem receiveD_closed (s : State) (r : Option Frame) (place : s.line.rx.getD s.receptionPlace = .inWindow)
    (closed : ∀ a advance n expired, s.line.activity ≠ .window a advance n expired) :
    s.receiveD r = (s.endReception.detectAt .dFrameCheck 0).afterInvalid := by
  simp only [State.receiveD, place]
  split
  · contradiction
  · rename_i window
    exact absurd window (closed _ _ _ _)
  · rfl

theorem receptionPlace_inWindow {s : State} {a : Nat} {advance expired : Bool}
    (inWindow : s.InWindow a advance expired) : s.line.rx.getD s.receptionPlace = .inWindow := by
  obtain ⟨-, ⟨n, window⟩, none | some⟩ := inWindow
  · simp only [none, Option.getD_none, State.receptionPlace, window]
  · rw [some, Option.getD_some]

/-! ## Valid replies (R138, R139) -/

/-- A NIL reply in a window is handed to no one, whatever its payload (R139; log entry 19). -/
theorem lineReception_nil (s : State) (a : Nat) (advance expired : Bool) (f : Frame)
    (inWindow : s.InWindow a advance expired) (fits : f.payload.length ≤ Config.maxPayload)
    (src : f.src.toNat = a) (kind : f.kind = kindCode .nil) :
    s.lineReception (some f) = (s.heard a).closed a advance := by
  obtain ⟨n, window⟩ := inWindow.2.1
  have valid : frameFits f = true ∧ f.src.toNat = a := ⟨decide_eq_true fits, src⟩
  have heard : s.endReception.handReply a f = s.heard a := by
    have tracked : s.endReception.tracked a = s.tracked a := rfl
    rw [State.handReply, if_pos kind, setMiss_eq, State.heard, tracked]
    split <;> rfl
  rw [lineReception_running s _ inWindow.1,
    receiveD_window s _ a n advance expired (receptionPlace_inWindow inWindow) window]
  simp only [State.judgeReply, if_pos valid, heard, closeWindow_eq_closed]

/-- Settles O32: NIL leaves the part as heard; a frame that is no report of its station goes by its destination. -/
theorem validReplyClosesItsWindow : Obligations.ValidReplyClosesItsWindow := by
  intro c f s a advance expired reception inWindow fits src
  have run := exec_reception s c (some f) reception
  by_cases kind : f.kind = kindCode .nil
  · rw [lineReception_nil s a advance expired f inWindow fits src kind] at run
    exact ⟨_, run, fun _ => rfl, fun other => absurd kind other⟩
  · rw [lineReception_valid s a advance expired f inWindow fits src kind] at run
    refine ⟨_, run, fun nil => absurd nil kind, fun _ noUnit noConv => ?_⟩
    subst src
    rw [classify_noReport _ f (reportingUnit_eq_none f noUnit) (reportingConv_eq_none f noConv)]
    exact classifyByDest_routes _ .d f

/-! ## Receptions that are no valid reply (R137, R138, R140, R151) -/

theorem judgeReply_invalid (s : State) (a : Nat) (advance : Bool) (r : Option Frame)
    (invalid : ∀ f, r = some f → f.payload.length ≤ Config.maxPayload → f.src.toNat ≠ a) :
    s.judgeReply a advance r = (s.detectAt .dFrameCheck a).afterInvalid := by
  cases r with
  | none => rfl
  | some f => exact if_neg fun valid => invalid f rfl (of_decide_eq_true valid.1) valid.2

/-- Behind an invalid reception a window within its timeout stays open (R137). -/
theorem afterInvalid_open (y : State) (within : ∀ a advance n, y.line.activity ≠ .window a advance n true) :
    y.afterInvalid = y := by
  unfold State.afterInvalid
  split
  · rename_i window
    exact absurd window (within _ _ _)
  · rfl

/-- A window past its timeout closes with a miss, as at the timeout itself with no reception in progress (R137). -/
theorem afterInvalid_expired (y : State) (a n : Nat) (advance : Bool) (runs : y.processing ≠ .deviceReset)
    (ended : y.line.rx = none) (window : y.line.activity = .window a advance n true) :
    .next y.afterInvalid = exec .replyWindowTimeout y := by
  rw [exec_replyWindowTimeout_free y a n advance true runs window ended]
  simp only [State.afterInvalid, window, State.missWindow, closeWindow_eq_closed]

/-- The end of a reception, by the check, the sender or the limit of R137. -/
theorem exec_receptionEnd (s : State) (c : Instr) (r : Option Frame)
    (ends : c.reception = some r ∨ c = .receptionLimit ∧ r = none ∧ s.line.rx ≠ none) :
    exec c s = .next (s.lineReception r) := by
  rcases ends with reception | ⟨rfl, rfl, began⟩
  · exact exec_reception s c r reception
  · obtain ⟨place, rx⟩ := Option.ne_none_iff_exists'.1 began
    have cut : s.cutAtLimit = s.lineReception none := by simp only [State.cutAtLimit, rx]
    exact congrArg Outcome.next cut

/-- What an invalid reception has counted, by where it fell, before the window is judged. -/
structure State.Miscounts (s y : State) : Prop where
  uncounted : s.line.rx.getD s.receptionPlace = .uncounted → y = s.endReception
  stray : s.line.rx.getD s.receptionPlace = .stray → y = s.endReception.detectAt .dFrameCheck 0
  window : ∀ a advance n expired, s.line.rx.getD s.receptionPlace = .inWindow →
    s.line.activity = .window a advance n expired → y = s.endReception.detectAt .dFrameCheck a
  frame : Unchanged [.errors, .port] s.endReception y

theorem receiveD_miscounts (s : State) (r : Option Frame)
    (invalid : ∀ a advance n expired f, s.line.activity = .window a advance n expired → r = some f →
      s.line.rx.getD s.receptionPlace = .inWindow → f.payload.length ≤ Config.maxPayload → f.src.toNat ≠ a) :
    ∃ y, s.receiveD r = y.afterInvalid ∧ s.Miscounts y := by
  cases place : s.line.rx.getD s.receptionPlace with
  | uncounted => exact ⟨_, receiveD_uncounted s r place, fun _ => rfl, by rw [place]; nofun, by rw [place]; nofun,
      .refl _ _⟩
  | stray => exact ⟨_, receiveD_stray s r place, by rw [place]; nofun, fun _ => rfl, by rw [place]; nofun,
      frame_told _ _ _⟩
  | inWindow =>
    by_cases windows : ∃ a advance n expired, s.line.activity = .window a advance n expired
    · obtain ⟨a, advance, n, expired, window⟩ := windows
      refine ⟨s.endReception.detectAt .dFrameCheck a, ?_, by rw [place]; nofun, by rw [place]; nofun,
        fun b _ _ _ _ other => ?_, frame_told _ _ _⟩
      · rw [receiveD_window s r a n advance expired place window]
        exact judgeReply_invalid _ a advance r fun f some => invalid a advance n expired f window some place
      · cases window.symm.trans other
        rfl
    · have closed (a advance n expired) : s.line.activity ≠ .window a advance n expired :=
        fun window => windows ⟨a, advance, n, expired, window⟩
      exact ⟨_, receiveD_closed s r place closed, by rw [place]; nofun, by rw [place]; nofun,
        fun a advance n expired _ window => absurd window (closed a advance n expired), frame_told _ _ _⟩

/-- Settles O35: where the reception fell decides what is counted, the line's window what follows. -/
theorem invalidReceptionIsCounted : Obligations.InvalidReceptionIsCounted := by
  intro s c r place ends begun ended
  have run := exec_receptionEnd s c r ends
  refine ⟨fun reset => ?_, ⟨_, rfl, rfl, frame_setLine s _⟩, fun runs invalid => ?_⟩
  · rw [run, lineReception_reset s r reset]
  · obtain ⟨y, received, counts⟩ := receiveD_miscounts s r invalid
    have line : y.line = { s.line with rx := none } := counts.frame .line (by decide)
    have processing : y.processing = s.processing := counts.frame .processing (by decide)
    have activity : y.line.activity = s.line.activity := by rw [line]
    have told (n : Nat) := detect_records ended (detection .dFrameCheck n) place
    rw [lineReception_running s r runs, received] at run
    refine ⟨y, counts.uncounted, fun stray => ?_, fun a advance n expired inWindow window => ?_, fun within => ?_,
      fun a advance n window => ?_⟩
    · rw [counts.stray stray]
      exact told 0
    · rw [counts.window a advance n expired inWindow window]
      exact told a
    · rw [run, afterInvalid_open y (activity ▸ within)]
    · rw [run]
      exact afterInvalid_expired y a n advance (processing ▸ runs) (by rw [line]) (activity ▸ window)

end Sys2Proof.Machine
end

section
/-! PROOFS. The scan's actions: what each makes of the unit line, as requests with their replies (R145 to R148, R170,
R177; log entries 14 and 20). -/
namespace Sys2Proof.Machine

/-! ## Starts and stops of the scan (R145, R146) -/

theorem act_scanStart (s : State) (n : Nat) : s.act 6 n [] = ((s.restartScan, .ok []), .nothing) := rfl

theorem act_scanStop (s : State) (n : Nat) : s.act 7 n [] = ((s.stopScan, .ok []), .nothing) := rfl

theorem pollInFlight_eq_none_iff (s : State) : s.pollInFlight = none
    ↔ ¬ ((∃ a advance f, s.line.activity = .sending (.poll a advance) f)
      ∨ ∃ a advance n expired, s.line.activity = .window a advance n expired) := by
  unfold State.pollInFlight
  split
  · rename_i polls
    simp [polls]
  · rename_i window
    simp [window]
  · rename_i noPoll noWindow
    simp only [true_iff, not_or, not_exists]
    exact ⟨noPoll, noWindow⟩

theorem stopScan_stopped (s : State) (stopped : s.line.scan = .stopped) : s.stopScan = s := if_pos stopped

theorem stopScan_polling (s : State) (runs : s.line.scan ≠ .stopped) (polls : s.pollInFlight ≠ none) :
    s.stopScan = s.setLine { s.line with stopPending := true } := by
  obtain ⟨a, polls⟩ := Option.ne_none_iff_exists'.1 polls
  rw [State.stopScan, if_neg runs, polls]

theorem stopScan_between (s : State) (runs : s.line.scan ≠ .stopped) (quiet : s.pollInFlight = none) :
    s.stopScan = s.setLine { s.line with scan := .stopped } := by
  rw [State.stopScan, if_neg runs, quiet]

/-! ## Single steps (R147) -/

theorem act_scanStep (s : State) (n : Nat) : s.act 8 n [] = (s.stepScan, .nothing) := rfl

theorem stepScan_otherMode (s : State) (mode : s.line.scanMode ≠ .step) : s.stepScan = (s, .ok []) := if_neg mode

/-- A credit that is held answers BUSY, also while the scan is STOPPED (log entry 14). -/
theorem stepScan_held (s : State) (mode : s.line.scanMode = .step) (credit : s.line.stepCredit = true) :
    s.stepScan = (s, .busy) := by
  rw [State.stepScan, if_pos mode, if_pos credit]

theorem stepScan_stopped (s : State) (mode : s.line.scanMode = .step) (credit : s.line.stepCredit = false)
    (stopped : s.line.scan = .stopped) : s.stepScan = (s, .ok []) := by
  rw [State.stepScan, if_pos mode, if_neg (Bool.eq_false_iff.1 credit), if_pos stopped]

theorem stepScan_gives (s : State) (mode : s.line.scanMode = .step) (credit : s.line.stepCredit = false)
    (runs : s.line.scan ≠ .stopped) :
    s.stepScan = ((s.setLine { s.line with stepCredit := true }).lineChoose, .ok []) := by
  rw [State.stepScan, if_pos mode, if_neg (Bool.eq_false_iff.1 credit), if_neg runs]

/-! ## The scan's configuration (R148) -/

theorem act_scanConfig (s : State) (n : Nat) (record : List Byte) (v : ScanValues) (values : readScan record = some v) :
    s.act 9 n record = ((s.configScan v, .ok []), .nothing) := by
  simp only [State.act, values]

theorem act_scanConfig_bad (s : State) (n : Nat) (record : List Byte) (bad : readScan record = none) :
    s.act 9 n record = ((s, .badValue), .nothing) := by
  simp only [State.act, bad]

theorem within_line_iff (n : Nat) : within 1 15 n = true ↔ 1 ≤ n ∧ n ≤ 15 := by
  simp [within]

theorem readScan_valid (a b m p : Byte) (mode : ScanMode) (protection : Protection)
    (start : 1 ≤ a.toNat ∧ a.toNat ≤ 15) (stop : 1 ≤ b.toNat ∧ b.toNat ≤ 15)
    (hm : ofCode [ScanMode.continuous, .single, .step] m = some mode)
    (hp : ofCode [Protection.protect, .overwrite] p = some protection) :
    readScan [a, b, m, p] = some ⟨a.toNat, b.toNat, mode, protection⟩ := by
  rw [← within_line_iff] at start stop
  simp only [readScan, hm, hp, start, stop, Bool.and_self, if_true]

/-- An address off the line, or a byte past the last code, names no configuration (R148). -/
theorem readScan_bad (a b m p : Byte)
    (bad : a = 0 ∨ 15 < a.toNat ∨ b = 0 ∨ 15 < b.toNat ∨ 2 < m.toNat ∨ 1 < p.toNat) :
    readScan [a, b, m, p] = none := by
  by_cases addresses : within 1 15 a.toNat = true ∧ within 1 15 b.toNat = true
  · have code : 2 < m.toNat ∨ 1 < p.toNat := by
      rw [within_line_iff, within_line_iff] at addresses
      bv_omega
    rcases code with mode | protection
    · have noMode : ofCode [ScanMode.continuous, .single, .step] m = none := List.getElem?_eq_none mode
      rw [readScan, noMode]
    · have noProtection : ofCode [Protection.protect, .overwrite] p = none := List.getElem?_eq_none protection
      rw [readScan, noProtection]
      cases ofCode [ScanMode.continuous, .single, .step] m <;> rfl
  · simp only [readScan, Bool.and_eq_true, addresses, if_false]
    split <;> rfl

/-! ## The requests (R170, R177) -/

/-- An action with its operands in the record: its owner's effect, then the reply. -/
theorem scanConfig_takes (s : State) (src : Byte) (req : BitVec 16) (a b m p : Byte) (x : State) (r : Reply)
    (h : s.takesRequests) (acts : s.counted.act 9 0 [a, b, m, p] = ((x, r), .nothing)) :
    ∃ t, exec (.scanConfig src req a b m p) s = .next t ∧ x.Answers t src req r := by
  obtain ⟨t, asked, answers⟩ := request_answers s src req 4 9 0 [a, b, m, p] x r h
    (by decide : 4 + 5 ≤ Config.maxPayload) acts
  exact ⟨t, congrArg Host.Outcome.next asked, answers⟩

/-- Settles O58: each action is taken as a request, and its clauses are those of its effect on the line. -/
theorem scanActionsSteerTheScan : Obligations.ScanActionsSteerTheScan := by
  intro s src req h takes polling restarted
  have restart (x : State) (l : UnitLine) (line : x = s.counted.setLine l) : x.restartScan = restarted l := by
    -- `restarted` is `restartScan` with `withoutAdvance` written out
    subst line
    rfl
  have stop (x : State) (effect : s.counted.stopScan = x) : takes (.scanStop src req) x (.ok []) :=
    action_takes s src req 7 0 _ x _ h rfl (effect ▸ act_scanStop _ _)
  have single (x : State) (r : Reply) (effect : s.counted.stepScan = (x, r)) : takes (.scanStep src req) x r :=
    action_takes s src req 8 0 _ x r h rfl (effect ▸ act_scanStep _ _)
  have flight : s.counted.pollInFlight = none ↔ ¬ polling := pollInFlight_eq_none_iff s.counted
  refine ⟨?_, fun stopped => stop _ (stopScan_stopped s.counted stopped), fun runs polls => ?_, fun runs quiet => ?_,
    fun mode => single _ _ (stepScan_otherMode s.counted mode), fun mode => ⟨fun credit => ?_,
      fun credit stopped => ?_, fun credit runs => ?_⟩, fun a b m p => ⟨fun mode protection => ?_, fun bad => ?_⟩⟩
  · rw [← restart s.counted s.line rfl]
    exact action_takes s src req 6 0 _ _ _ h rfl (act_scanStart _ _)
  · exact stop _ (stopScan_polling s.counted runs fun quiet => flight.1 quiet polls)
  · exact stop _ (stopScan_between s.counted runs (flight.2 quiet))
  · exact single _ _ (stepScan_held s.counted mode credit)
  · exact single _ _ (stepScan_stopped s.counted mode credit stopped)
  · exact single _ _ (stepScan_gives s.counted mode credit runs)
  · intro a1 a15 b1 b15 hm hp
    rw [← restart _ _ rfl]
    exact scanConfig_takes s src req a b m p _ _ h
      (act_scanConfig _ _ _ _ (readScan_valid a b m p mode protection ⟨a1, a15⟩ ⟨b1, b15⟩ hm hp))
  · exact scanConfig_takes s src req a b m p _ _ h (act_scanConfig_bad _ _ _ (readScan_bad a b m p bad))

end Sys2Proof.Machine
end

section
/-! PROOFS. The own queue: a detection that finds it full, and the gathering of STATUS (R164, R166, R168, R183,
R187). -/
namespace Sys2Proof.Machine
open Host

/-! ## Detections with a full own queue (R164, R183, R187) -/

theorem raisesNotice_iff (s : State) (d : Detection) : s.raisesNotice d = true
    ↔ perClass s.errors.classFlags (s.severityOf d.kind) = false
      ∧ perClass s.errors.notice.enable (s.severityOf d.kind) = true ∧ s.errors.notice.addr ≠ 0 := by
  simp only [State.raisesNotice, Bool.and_eq_true, Bool.not_eq_true', bne_iff_ne, and_assoc]

theorem perClass_setClass {α : Type} (p : PerClass α) (c : Severity) (x : α) : perClass (setClass p c x) c = x := by
  cases c <;> rfl

/-- A detection sets its class flag, so the next one of its kind raises no notice (R187). -/
theorem raisesNotice_noted (s : State) (d e : Detection) (same : e.kind = d.kind) :
    ¬ (s.note d).raisesNotice e = true := by
  have flag : perClass (s.note d).errors.classFlags ((s.note d).severityOf e.kind) = true := by
    rw [same]
    exact perClass_setClass s.errors.classFlags (s.severityOf d.kind) true
  simp [raisesNotice_iff, flag]

theorem detectChain_quiet (n : Nat) (s : State) (d : Detection) (quiet : ¬ s.raisesNotice d = true) :
    s.detectChain n d = s.note d := by
  cases n with
  | zero => rfl
  | succ n => exact if_neg quiet

/-- With the own queue full, the ALARM of a detection is dropped, which is the next detection (R164). -/
theorem detectChain_dropped (n : Nat) (s : State) (d : Detection) (full : Config.ownQueueSize ≤ s.port.own.length)
    (raises : s.raisesNotice d = true) : s.detectChain (n + 1) d = (s.note d).detectChain n ownOverflow := by
  have crowded : (s.note d).ownFull = true := decide_eq_true full
  simp only [State.detectChain, raises, crowded, if_true]

/-- Settles O16: each dropped ALARM is the next detection, and the second U_OWN_OVERFLOW finds its class flag set. -/
theorem fullOwnQueueDropsNotices : Obligations.FullOwnQueueDropsNotices := by
  intro s d full noted raises lost
  have told (x : State) (e : Detection) : raises x e → x.raisesNotice e = true := (raisesNotice_iff x e).2
  have quiet (x : State) (e : Detection) : ¬ raises x e → ¬ x.raisesNotice e = true := mt (raisesNotice_iff x e).1
  refine ⟨fun silent => ?_, fun first silent => ?_, fun first second => ?_⟩
  · exact detectChain_quiet 3 s d (quiet s d silent)
  · calc s.detect d = (noted s d).detectChain 2 lost := detectChain_dropped 2 s d full (told s d first)
      _ = noted (noted s d) lost := detectChain_quiet 2 _ lost (quiet _ _ silent)
  · calc s.detect d = (noted s d).detectChain 2 lost := detectChain_dropped 2 s d full (told s d first)
      _ = (noted (noted s d) lost).detectChain 1 lost := detectChain_dropped 1 _ lost full (told _ _ second)
      _ = noted (noted (noted s d) lost) lost :=
        detectChain_quiet 1 _ lost (raisesNotice_noted (s.note d) lost lost rfl)

/-! ## The gathering of STATUS (R166, R168) -/

/-- The dispatch port with the status timer set again at its expiry (R166). -/
def State.statusPort (s : State) : DispatchPort := { s.port with
  statusLast := s.port.statusNext, statusNext := s.port.statusNext + s.settings.statusInterval }

theorem statusExpiry_unaddressed (s : State) (unaddressed : s.settings.dispatchAddr = 0) :
    s.statusExpiry = s.setPort s.statusPort := if_pos unaddressed

theorem statusExpiry_refreshes (s : State) (addressed : s.settings.dispatchAddr ≠ 0)
    (waits : ∃ x ∈ s.port.own, x.isStatus = true) :
    s.statusExpiry = s.setPort { s.statusPort with
      own := s.port.own.map (·.refresh s.statusFrame)
      traffic := { s.port.traffic with refreshed := satInc s.port.traffic.refreshed } } := by
  rw [State.statusExpiry, if_neg addressed, if_pos (List.any_eq_true.2 waits)]
  rfl

theorem statusExpiry_offers (s : State) (addressed : s.settings.dispatchAddr ≠ 0)
    (alone : ∀ x ∈ s.port.own, x.isStatus = false) :
    s.statusExpiry = (s.setPort s.statusPort).offerOwn s.statusFrame := by
  have noStatus : ¬ s.port.own.any OwnFrame.isStatus = true := by simpa using alone
  rw [State.statusExpiry, if_neg addressed, if_neg noStatus]
  rfl

/-- Settles O30: the address, a waiting STATUS frame and the own queue decide what becomes of the gathering. -/
theorem statusIsGatheredOnce : Obligations.StatusIsGatheredOnce := by
  intro s runs due p waits
  have run : exec .statusTimerExpiry s = .next s.statusExpiry :=
    congrArg Outcome.next ((whenRunning_of s _ runs).trans (if_pos due))
  refine ⟨_, run, statusExpiry_unaddressed s, statusExpiry_refreshes s, fun addressed alone place => ?_,
    fun addressed alone full => ?_⟩
  · have gains := offerOwn_gains (s.setPort s.statusPort) s.statusFrame place
    rw [statusExpiry_offers s addressed alone]
    exact ⟨gains.outgoing, gains.port, (frame_setPort s _).trans gains.rest⟩
  · rw [statusExpiry_offers s addressed alone]
    exact offerOwn_drops _ _ (Nat.not_lt.2 full.ge)

end Sys2Proof.Machine
end

section
/-! PROOFS. Receptions on the dispatch port, where the classifier sends their frames, and the actions of the table (R154
to R157, R160 to R162, R169; log entry 18). -/
namespace Sys2Proof.Machine
open Host

/-! ## Receptions (R154, R179, R190) -/

theorem parseFrame_fits {bytes : List Byte} {f : Frame} (parsed : parseFrame bytes = some f) : frameFits f = true := by
  unfold parseFrame at parsed
  split at parsed
  · dsimp only at parsed
    split at parsed
    · rename_i len
      split at parsed
      · cases parsed
        exact decide_eq_true ((List.length_take_le _ _).trans len.2)
      · cases parsed
    · cases parsed
  · cases parsed

/-- A reception that is a frame is that frame's reception. -/
theorem receiveBytesU_frame (s : State) {bytes : List Byte} {f : Frame} (parsed : parseFrame bytes = some f) :
    s.receiveBytesU bytes = s.receiveFrameU f := by
  rw [State.receiveBytesU, parsed, State.receiveFrameU, if_pos (parseFrame_fits parsed)]

/-- Settles O17: the bytes decide between the frame's reception and a check failure. -/
theorem dispatchReceptionIsAFrameOrACheckFailure : Obligations.DispatchReceptionIsAFrameOrACheckFailure := by
  intro s bytes
  refine ⟨fun reset => ?_, fun f parsed => ?_, fun runs failed place => ?_⟩
  · exact congrArg Outcome.next (whenRunning_reset s _ reset)
  · exact congrArg Outcome.next (congrArg s.whenRunning (funext fun x => receiveBytesU_frame x parsed))
  · have lost : s.receiveBytesU bytes = s.detectAt .uFrameCheck 0 := by
      rw [State.receiveBytesU, failed]
      rfl
    exact ⟨_, congrArg Outcome.next ((whenRunning_of s _ runs).trans lost), detect_records s _ place⟩

/-! ## The classifier on port U (R155 to R157, R160 to R162, R169) -/

/-- A frame on port U is no report of a station: it goes by its destination (R155, R158). -/
theorem classify_dispatch (s : State) (f : Frame) : s.classify .u f = s.counted.classifyByDest .u f := rfl

/-- A plant order that is accepted has one effect on either port (R26): its port names only the station of a
refusal. -/
theorem actOn_accepted (x : State) (p : Port) (f : Frame)
    (accepted : f.kind = kindCode .hold ∧ holdField f.payload ≠ none ∧ x.acceptsOrders f.src
      ∨ f.kind = kindCode .admission ∧ admitFields f.payload ≠ none ∧ x.acceptsOrders f.src
      ∨ f.kind = kindCode .head ∧ headFields f.payload ≠ none) :
    x.actOn p f .consume = x.actOn .u f .consume := by
  rcases accepted with ⟨kind, fields, accepts⟩ | ⟨kind, fields, accepts⟩ | ⟨kind, fields⟩ <;>
    obtain ⟨fields, read⟩ := Option.ne_none_iff_exists'.1 fields
  · simp only [actOn_hold x _ f kind, State.consumeHold, read, judgeOrder_accepts x _ _ _ accepts]
  · simp only [actOn_admission x _ f kind, State.consumeAdmit, read, judgeOrder_accepts x _ _ _ accepts]
  · simp only [actOn_head x _ f kind, State.consumeHead, read]

theorem plantKind_of_mem {kind : Byte} (plant : kind ∈ plantKinds.map kindCode) :
    ∃ k ∈ plantKinds, kind = kindCode k := by
  obtain ⟨k, mem, code⟩ := List.mem_map.1 plant
  exact ⟨k, mem, code.symm⟩

/-- A kind without an owner (R157, R162). -/
theorem consumeOwned_others (x : State) (p : Port) (f : Frame) (others : State → State)
    (noPlant : f.kind ∉ plantKinds.map kindCode) : x.consumeOwned p f others = others x := by
  have owner (k : FrameKind) (plant : k ∈ plantKinds) : kindOf f.kind ≠ some k := fun named =>
    noPlant (kindCode_of_kindOf named ▸ List.mem_map_of_mem plant)
  unfold State.consumeOwned
  split
  · exact absurd ‹_› (owner .target (by decide))
  · exact absurd ‹_› (owner .hold (by decide))
  · exact absurd ‹_› (owner .admission (by decide))
  · exact absurd ‹_› (owner .head (by decide))
  · rfl

/-- CONSUME of a kind without an owner (R162). -/
theorem actOn_others (x : State) (p : Port) (f : Frame) (noPlant : f.kind ∉ plantKinds.map kindCode) :
    x.actOn p f .consume = if f.kind = kindCode .mgmtRequest then x.refuseFrame p f else x.unknownKind p f :=
  consumeOwned_others x p f (fun y => if f.kind = kindCode .mgmtRequest then y.refuseFrame p f else y.unknownKind p f)
    noPlant

/-- Settles O18: the frame is counted and goes by its destination; an action consumes by the kind's owner. -/
theorem dispatchFrameIsRouted : Obligations.DispatchFrameIsRouted := by
  refine ⟨fun c f s brings runs fits => ?_, fun x p f => ?_⟩
  · have received : s.receiveOn .u f = s.counted.classifyByDest .u f := by
      have fit : frameFits f = true := decide_eq_true fits
      rw [State.receiveOn, whenRunning_of s _ runs, State.receiveFrameU, if_pos fit, classify_dispatch]
    exact ⟨_, (exec_dispatchFrame c f s brings).trans (congrArg Outcome.next received),
      classifyByDest_routes s.counted .u f, rfl⟩
  · intro index plant consumed
    have index_eq : errorIndex f p = index := errorIndex_eq f p
    have owned (others : State → State) (isPlant : plant) : x.consumeOwned p f others = consumed := by
      obtain ⟨k, mem, kind⟩ := plantKind_of_mem isPlant
      exact consumeOwned_plant x p f k kind mem others
    refine ⟨rfl, rfl, rfl, fun place request => ?_, fun place noPlant noRequest => ?_,
      fun others => ⟨owned others, consumeOwned_others x p f others⟩, actOn_accepted x p f⟩
    · have refused : consumed = x.detectAt .orderRefused index := by
        have noPlant : f.kind ∉ plantKinds.map kindCode := by
          rw [request]
          decide
        rw [← index_eq]
        exact (actOn_others x p f noPlant).trans (if_pos request)
      rw [refused]
      exact detect_records x _ place
    · have unknown : consumed = x.detectAt .frameKindUnknown index := by
        rw [← index_eq]
        exact (actOn_others x p f noPlant).trans (if_neg noRequest)
      rw [unknown]
      exact detect_records x _ place

end Sys2Proof.Machine
end

section
/-! PROOFS. READ, object by object, and the requests that a busy part answers BUSY (R170 to R172). -/
namespace Sys2Proof.Machine
open Host

/-! ## READ (R171, R172) -/

theorem readIndexed_some {α : Type} {place : Option α} {x : α} (named : place = some x) (enc : α → List Byte) :
    readIndexed (place.map enc) = .ok (enc x) := by
  rw [named]
  rfl

theorem readIndexed_none {α : Type} {place : Option α} (unnamed : place = none) (enc : α → List Byte) :
    readIndexed (place.map enc) = .badIndex := by
  rw [unnamed]
  rfl

theorem unitOf_out (n : Nat) (out : n = 0 ∨ 8 < n) : unitOf n = none := dif_neg (by omega)

theorem convOf_out (n : Nat) (out : n = 0 ∨ 2 < n) : convOf n = none := dif_neg (by omega)

theorem severityBytes_kind (s : State) {n : Nat} {k : ErrorKind} (named : n = kindNumber k) :
    s.severityBytes n = some [byteOf (severityCode (s.severityOf k))] := by
  subst named
  exact dif_pos ⟨Nat.succ_pos _, (kindIndex k).isLt⟩

theorem severityBytes_out (s : State) (n : Nat) (out : n = 0 ∨ 18 < n) : s.severityBytes n = none := dif_neg (by omega)

theorem converterBytes_conv (s : State) {n : Nat} {c : ConvId} (named : n = convNumber c) :
    s.converterBytes n = if (s.conv c).state = .absent then none else some (s.conv c).bytes := by
  simp only [State.converterBytes, convOf_eq_some n c named]

theorem converterBytes_out (s : State) (n : Nat) (out : n = 0 ∨ 2 < n) : s.converterBytes n = none := by
  simp only [State.converterBytes, convOf_out n out]

theorem lineInputBytes_out (s : State) (n : Nat) (out : n = 0 ∨ 10 < n) : s.lineInputBytes n = none := by
  have unit : unitOf n = none := unitOf_out n (by omega)
  simp only [State.lineInputBytes, unit]
  rw [if_neg (by omega), if_neg (by omega)]

theorem descriptorBytes_out (s : State) (n : Nat) (out : n = 0 ∨ 4 < n) : s.descriptorBytes n = none := by
  rcases out with rfl | above
  · rfl
  · obtain ⟨m, rfl⟩ := Nat.exists_eq_add_of_lt above
    rw [show 4 + m + 1 = m + 5 by omega]
    rfl

/-- A code that names no object (R171). -/
theorem readObject_unknown (s : State) (o n : Nat) (out : o = 0 ∨ 17 < o) : s.readObject o n = .badObject := by
  rcases out with rfl | above
  · rfl
  · obtain ⟨m, rfl⟩ := Nat.exists_eq_add_of_lt above
    rw [show 17 + m + 1 = m + 18 by omega]
    rfl

/-! ## Requests at a busy part (R170, R171) -/

/-- A request that the envelope holds is counted and reaches the responder as it was sent (R155, R156, R170). -/
theorem request_managed (s : State) (src : Byte) (req : BitVec 16) (k o i : Byte) (record : List Byte)
    (station : s.settings.stationAddr ≤ 254) (fits : recordFits record = true) :
    s.request src req k o i record = s.counted.manage src (be16 req.toNat ++ [k, o, i] ++ record) := by
  have fit : frameFits (mkFrame s.settings.stationAddr src.toNat .mgmtRequest
      (be16 req.toNat ++ [k, o, i] ++ record)) = true := by
    have length : record.length + 5 ≤ Config.maxPayload := of_decide_eq_true fits
    simp only [frameFits, mkFrame, be16, List.length_append, List.length_cons, List.length_nil, decide_eq_true_eq]
    omega
  have dest : (byteOf s.settings.stationAddr).toNat = s.settings.stationAddr := byteOf_toNat _ (by omega)
  rw [State.request, State.receiveFrameU, if_pos fit, classify_own _ _ dest]
  simp only [State.takeOwn, State.consumeOwned, mkFrame, kindOf_kindCode, if_true, byteOf_toNat_eq]

theorem manage_busy (x : State) (src : Byte) (payload : List Byte) (busy : x.busy = true) :
    x.manage src payload = x.answer src.toNat (requestNumber payload) .busy .nothing := if_pos busy

/-- The command of a management request is the reception of its frame; one that is well formed fits the
envelope. -/
theorem exec_sender (c : Instr) (s : State) (src : Byte) (req : BitVec 16) (sent : c.sender = some (src, req)) :
    ∃ k o i record, exec c s = .next (s.whenRunning (fun x => x.request src req k o i record))
      ∧ (c.wellFormed = true → recordFits record = true) := by
  cases c with
  | writeMerit list =>
    cases sent
    cases list <;> exact ⟨_, _, _, _, rfl, id⟩
  | _ => cases sent <;> exact ⟨_, _, _, _, rfl, id⟩

/-- Settles O51: a READ is performed on the counted part, which reads as before; a busy part answers at once. -/
theorem readAnswersAndBusyRefuses : Obligations.ReadAnswersAndBusyRefuses := by
  intro s src req
  refine ⟨fun object index takes => ?_, fun c sent wf busy runs station => ?_⟩
  · obtain ⟨t, asked, answers⟩ := request_answers s src req 1 object index [] s.counted _ takes (by decide) rfl
    have out {n : Nat} (k : index = 0 ∨ n < index.toNat) : index.toNat = 0 ∨ n < index.toNat :=
      k.imp_left (congrArg BitVec.toNat)
    have reads {o : Byte} {r : Reply} (is : object = o) (value : s.counted.readObject o.toNat index.toNat = r) :
        s.counted.readObject object.toNat index.toNat = r := is ▸ value
    refine ⟨t, _, congrArg Outcome.next asked, answers,
      (reads · rfl), (reads · rfl), (reads · rfl), (reads · rfl), (reads · rfl), (reads · rfl), (reads · rfl),
      (reads · rfl), (reads · rfl), fun u hu => ?unit, fun g hg is => ?group, fun k hk is => ?entry,
      fun k hk is => ?severity, fun c hc is => ?converter, (reads · rfl), (reads · rfl),
      fun which no => ?noUnit, fun is no => reads is ?noGroup, fun is no => reads is ?noEntry,
      fun is no => reads is ?noKind, fun is no => reads is ?noConverter, fun is no => reads is ?noLine,
      fun is no => reads is ?noDescriptor, fun no => ?noObject⟩
    case unit =>
      have unit := (unitOf_eq_some _ u).2 hu
      exact ⟨(reads · (readIndexed_some unit _)), (reads · (readIndexed_some unit _))⟩
    case group => exact reads is (readIndexed_some ((groupOf_eq_some _ g).2 hg) _)
    case entry => exact reads is (readIndexed_some (classOf_eq_some _ k hk) _)
    case severity => exact reads is (congrArg readIndexed (severityBytes_kind s hk))
    case converter =>
      have bytes := converterBytes_conv s hc
      exact ⟨fun absent => reads is (congrArg readIndexed (bytes.trans (if_pos absent))),
        fun present => reads is (congrArg readIndexed (bytes.trans (if_neg present)))⟩
    case noUnit =>
      have noMachine := unitOf_out _ (out no)
      exact which.elim (reads · (readIndexed_none noMachine _)) (reads · (readIndexed_none noMachine _))
    case noGroup => exact readIndexed_none (groupOf_eq_none _ (out no)) _
    case noEntry => exact readIndexed_none (classOf_eq_none _ (out no)) _
    case noKind => exact congrArg readIndexed (severityBytes_out s _ (out no))
    case noConverter => exact congrArg readIndexed (converterBytes_out s _ (out no))
    case noLine => exact congrArg readIndexed (lineInputBytes_out s _ (out no))
    case noDescriptor => exact congrArg readIndexed (descriptorBytes_out s _ (out no))
    case noObject => exact readObject_unknown s.counted _ _ (no.imp_left (congrArg BitVec.toNat))
  · obtain ⟨k, o, i, record, run, fits⟩ := exec_sender c s src req sent
    have number : requestNumber (be16 req.toNat ++ [k, o, i] ++ record) = req.toNat := be16_nat16 _ req.isLt
    have refused := request_managed s src req k o i record station (fits wf)
    rw [manage_busy s.counted src _ busy, number] at refused
    rw [run, whenRunning_of s _ runs, refused]
    exact ⟨_, rfl, answer_answers s.counted src req .busy⟩

end Sys2Proof.Machine
end

section
/-! PROOFS. The frames of the part itself, field by field: STATUS, ALARM, MGMT_REPLY (R167, R170, R187, R190, section
11.2). -/
namespace Sys2Proof.Machine

/-! ## Numbers as bytes (R190) -/

theorem be32_value (n : Nat) (range : n ≤ 4294967295) :
    (((byteOf (n / 16777216)).toNat * 256 + (byteOf (n / 65536)).toNat) * 256 + (byteOf (n / 256)).toNat) * 256
      + (byteOf n).toNat = n := by
  simp only [byteOf, BitVec.toNat_ofNat]
  omega

theorem beInt16_eq (i : Int) : beInt16 i = be16 (i % 65536).toNat := by
  rw [beInt16, BitVec.toNat_ofInt]
  rfl

theorem beInt32_eq (i : Int) : beInt32 i = be32 (i % 4294967296).toNat := by
  rw [beInt32, BitVec.toNat_ofInt]
  rfl

/-! ## STATUS (R81, R83, R117, R167) -/

theorem plantPower_eq_sum (s : State) : s.plantPower =
    (allUnits.map (fun u => if (s.tracker u).rptValid = true then (s.tracker u).rptPower else 0)).sum := by
  rw [List.sum_eq_foldl, List.foldl_map]
  rfl

/-- Five flags as the low bits of a byte. -/
theorem flagBits_five : ∀ a b c d e : Bool,
    let flags := byteOf (flagBit a 1 + flagBit b 2 + flagBit c 4 + flagBit d 8 + flagBit e 16)
    flags.getLsbD 0 = a ∧ flags.getLsbD 1 = b ∧ flags.getLsbD 2 = c ∧ flags.getLsbD 3 = d ∧ flags.getLsbD 4 = e
      ∧ flags.toNat < 32 := by decide

/-- Three flags as the low bits of a byte. -/
theorem flagBits_three : ∀ a b c : Bool, let flags := byteOf (flagBit a 1 + flagBit b 2 + flagBit c 4)
    flags.toNat < 8 ∧ flags.getLsbD 0 = a ∧ flags.getLsbD 1 = b ∧ flags.getLsbD 2 = c := by decide

theorem statusPayload_length (s : State) : s.statusPayload.length = 47 := rfl

theorem statusPayload_tracker (s : State) (u : UnitId) :
    (s.statusPayload.drop (21 + 3 * u.val)).take 3 = (s.tracker u).statusBytes := by
  fin_cases u <;> rfl

theorem statusPayload_conv (s : State) (c : ConvId) :
    (s.statusPayload.drop (45 + c.val)).take 1 = [byteOf (convStateCode (s.conv c).state)] := by
  fin_cases c <;> rfl

theorem mem_tStates (st : TState) : st ∈ tStates := by
  cases st <;> decide

/-! ## The frames -/

/-- Settles O14: each field stands at its offset, with the code that its value has. -/
theorem framesOfThePartAreLaidOut : Obligations.FramesOfThePartAreLaidOut := by
  refine ⟨fun n range => ⟨_, _, rfl, be16_nat16 n (by omega)⟩, fun n range => ⟨_, _, _, _, rfl, be32_value n range⟩,
    fun i _ _ => beInt16_eq i, fun i _ _ => beInt32_eq i, fun s => ?status, fun s d => ?alarm,
    fun s src req r => ?reply⟩
  case status =>
    obtain ⟨stale, headStale, clamped, hold, unconfigured, five⟩ := flagBits_five s.target.staleOrder
      s.table.headStale s.target.clamped s.target.holdFlag s.unconfigured
    refine ⟨s.statusPayload, s.statusFlags, s.classFlagByte, rfl, statusPayload_length s, ?fields, stale, headStale,
      clamped, hold, unconfigured, five, flagBits_three _ _ _⟩
    refine ⟨rfl, ?authority, rfl, rfl, ?power, rfl, rfl, rfl, fun u => ?tracker, fun c => ?converter⟩
    case authority =>
      show [byteOf (authorityCode s.authority)] = _
      cases s.authority <;> rfl
    case power =>
      rw [← plantPower_eq_sum]
      rfl
    case tracker =>
      exact ⟨_, statusPayload_tracker s u, ofCode_idxOf tStates _ (mem_tStates _) (by decide)⟩
    case converter =>
      refine (statusPayload_conv s c).trans ?_
      cases (s.conv c).state <;> rfl
  case alarm =>
    unfold State.alarmFrame
    cases s.severityOf d.kind <;> cases d.sub <;> rfl
  case reply =>
    cases r with
    | refused reason => cases reason <;> rfl
    | _ => rfl

end Sys2Proof.Machine
end

section
/-! PROOFS. Every command completes; the CLEARs, as requests with their replies (R170, R176, R182, R184, R186, R188). -/
namespace Sys2Proof.Machine

/-- Settles O3: each command's meaning answers a next state, and no operation touches the queue of commands. -/
theorem everyCommandCompletes : Obligations.EveryCommandCompletes := fun c s => by
  obtain ⟨t, run, safe⟩ := safe_exec c s
  exact ⟨t, run, safe.pending⟩

/-! ## The flags of the lines (R182) -/

/-- A trip line's flag is cleared, except that of a LEVEL line that is asserted (R182). -/
theorem clearTripFlag_eq (s : State) (u : UnitId) : s.clearTripFlag u =
    if s.settings.senses.get u = .level ∧ s.inputs.tripLevel.get u = true then s
    else s.setInputs { s.inputs with tripFlag := upd s.inputs.tripFlag u false } :=
  if_congr (by simp [State.held]) rfl rfl

theorem clearLineFlag_trip (s : State) (n : Nat) (u : UnitId) (named : n = unitNumber u) :
    s.clearLineFlag n = (s.clearTripFlag u, .ok []) := by
  simp only [State.clearLineFlag, (unitOf_eq_some n u).2 named]

theorem clearLineFlag_estop (s : State) :
    s.clearLineFlag 9 = (s.setInputs { s.inputs with estopFlag := false }, .ok []) := rfl

theorem clearLineFlag_local (s : State) : s.clearLineFlag 10 =
    (if s.inputs.localLevel = true then s else s.setInputs { s.inputs with localFlag := false }, .ok []) := rfl

theorem clearLineFlag_out (s : State) (n : Nat) (out : n = 0 ∨ 10 < n) : s.clearLineFlag n = (s, .badIndex) := by
  have noMachine : unitOf n = none := unitOf_out n (by omega)
  simp only [State.clearLineFlag, noMachine]
  rw [if_neg (by omega), if_neg (by omega)]

/-! ## The requests (R170, R176) -/

/-- A CLEAR that is taken: the object's owner clears it, then the reply is offered (R170, R176). -/
theorem clear_takes (s : State) (src : Byte) (req : BitVec 16) (o i : Byte) (c : Instr) (x : State) (r : Reply)
    (h : s.takesRequests) (run : exec c s = .next (s.whenRunning (fun x => x.request src req 3 o i [])))
    (clears : s.counted.clearObject o.toNat i.toNat = (x, r)) :
    ∃ t, exec c s = .next t ∧ x.Answers t src req r := by
  obtain ⟨t, asked, answers⟩ := request_answers s src req 3 o i [] x r h (by decide)
    (congrArg (·, AfterReply.nothing) clears)
  exact ⟨t, run.trans (congrArg Host.Outcome.next asked), answers⟩

/-- Settles O56: each CLEAR is taken as a request, and the line's index decides which flag goes. -/
theorem clearsReturnToResetValues : Obligations.ClearsReturnToResetValues := by
  intro s src req h takes
  refine ⟨clear_takes s src req 13 0 _ _ _ h rfl rfl, clear_takes s src req 14 0 _ _ _ h rfl rfl,
    clear_takes s src req 15 0 _ _ _ h rfl rfl, fun index => ?line⟩
  have line (x : State) (r : Reply) (clears : s.counted.clearLineFlag index.toNat = (x, r)) :
      takes (.clearLine src req index) x r := clear_takes s src req 16 index _ x r h rfl clears
  refine ⟨fun u named => ?trip, ?estop, ?localRemote, fun out => ?none⟩
  case trip =>
    have cleared := clearTripFlag_eq s.counted u
    exact line _ _ (cleared ▸ clearLineFlag_trip s.counted _ u named)
  case estop =>
    rintro rfl
    exact line _ _ (clearLineFlag_estop s.counted)
  case localRemote =>
    rintro rfl
    exact line _ _ (clearLineFlag_local s.counted)
  case none => exact line _ _ (clearLineFlag_out s.counted _ (out.imp_left (congrArg BitVec.toNat)))

end Sys2Proof.Machine
end

section
/-! PROOFS. A MGMT_REQUEST frame: the command that it spells, or the answer to one that spells none (R155, R170, R171,
R176, R177, R191, section 11.2; log entry 33). -/
namespace Sys2Proof.Machine

/-! ## Requests that name nothing (R171, R176, R177) -/

theorem perform_unknown (s : State) (k o n : Nat) (record : List Byte) (out : k = 0 ∨ 4 < k) :
    s.perform k o n record = ((s, .badObject), .nothing) := by
  unfold State.perform
  split
  case h_5 => rfl
  all_goals omega

theorem writeObject_unknown (s : State) (o n : Nat) (record : List Byte) (out : o = 0 ∨ 8 < o) :
    s.writeObject o n record = (s, .badObject) := by
  unfold State.writeObject
  split
  case h_9 => rfl
  all_goals omega

theorem clearObject_unknown (s : State) (o n : Nat) (out : o < 13 ∨ 16 < o) :
    s.clearObject o n = (s, .badObject) := by
  unfold State.clearObject
  split
  case h_5 => rfl
  all_goals omega

theorem act_unknown (s : State) (a n : Nat) (record : List Byte) (out : a = 0 ∨ 12 < a) :
    s.act a n record = ((s, .badObject), .nothing) := by
  unfold State.act
  split
  case h_13 => rfl
  all_goals omega

theorem act_noMachine (s : State) (n : Nat) (record : List Byte) (out : n = 0 ∨ 8 < n) :
    s.act 2 n record = ((s, .badIndex), .nothing) := by
  simp only [State.act, unitOf_out n out]

theorem number_of_convOf (n : Nat) (c : ConvId) (named : convOf n = some c) : n = convNumber c := by
  unfold convOf at named
  split at named
  · cases named
    simp only [convNumber]
    omega
  · cases named

/-- A number that names no fitted converter (R171, R177). -/
theorem act_noConverter (s : State) (n : Nat) (record : List Byte)
    (out : ∀ c, n = convNumber c → (s.conv c).state = .absent) :
    s.act 3 n record = ((s, .badIndex), .nothing) := by
  unfold State.act
  cases named : convOf n with
  | none => rfl
  | some c => exact if_pos (out c (number_of_convOf n c named))

/-! ## Actions with bytes behind their header (R191) -/

theorem whenBare_laden (s : State) {record : List Byte} (laden : record ≠ []) (result : State × Reply) :
    whenBare record s result = (s, .badValue) := if_neg laden

/-- An action without a machine or converter takes no bytes behind its header, except SCAN_CONFIG (R191). -/
theorem act_laden (s : State) (a n : Nat) {record : List Byte} (laden : record ≠ [])
    (bare : a ∈ [1, 4, 5, 6, 7, 8, 10, 11, 12]) : s.act a n record = ((s, .badValue), .nothing) := by
  have refused := whenBare_laden s laden
  unfold State.act
  split
  case h_5 => split <;> simp only [refused]
  case h_2 | h_3 | h_9 => exact absurd bare (by decide)
  case h_13 => simp_all
  all_goals simp only [refused, if_neg laden]

theorem act_laden_machine (s : State) {n : Nat} {u : UnitId} (named : n = unitNumber u) {record : List Byte}
    (laden : record ≠ []) : s.act 2 n record = ((s, .badValue), .nothing) := by
  simp only [State.act, (unitOf_eq_some n u).2 named, whenBare_laden s laden]

theorem act_laden_converter (s : State) {n : Nat} {c : ConvId} (named : n = convNumber c)
    (fitted : (s.conv c).state ≠ .absent) {record : List Byte} (laden : record ≠ []) :
    s.act 3 n record = ((s, .badValue), .nothing) := by
  simp only [State.act, convOf_eq_some n c named, if_neg fitted, whenBare_laden s laden]

/-- SCAN_CONFIG has four bytes behind its header (R148). -/
theorem readScan_length (record : List Byte) (short : record.length ≠ 4) : readScan record = none := by
  unfold readScan
  split
  · exact absurd rfl short
  · rfl

/-! ## The responder (R170, R171, R191) -/

theorem counted_free (s : State) (h : s.takesRequests) : s.counted.busy = false := by
  obtain ⟨idle, awaited, line, _⟩ := h
  simp [State.busy, State.counted, State.countTraffic, idle, awaited, line]

/-- A payload shorter than its header is answered BAD_OBJECT (R191). -/
theorem manage_short (x : State) (src : Byte) (payload : List Byte) (free : x.busy = false)
    (short : payload.length < 5) :
    x.manage src payload = x.answer src.toNat (requestNumber payload) .badObject .nothing := by
  unfold State.manage
  simp only [free, Bool.false_eq_true, if_false]
  split
  · simp only [List.length_cons] at short
    omega
  · rfl

theorem manage_performs (x : State) (src n1 n0 k o i : Byte) (record : List Byte) (free : x.busy = false) :
    x.manage src (n1 :: n0 :: k :: o :: i :: record) =
      (x.perform k.toNat o.toNat i.toNat record).1.1.answer src.toNat (nat16 n1 n0)
        (x.perform k.toNat o.toNat i.toNat record).1.2 (x.perform k.toNat o.toNat i.toNat record).2 := by
  simp only [State.manage, free, Bool.false_eq_true, if_false]
  rfl

theorem requestNumber_short (payload : List Byte) (short : payload.length < 2) : requestNumber payload = 0 := by
  unfold requestNumber
  split
  · simp only [List.length_cons] at short
    omega
  · rfl

theorem nat16_toNat (hi lo : Byte) : (BitVec.ofNat 16 (nat16 hi lo)).toNat = nat16 hi lo := by
  rw [BitVec.toNat_ofNat]
  apply Nat.mod_eq_of_lt
  simp only [nat16]
  omega

/-! ## The frame (R154 to R156) -/

/-- A MGMT_REQUEST frame for the station address is counted and reaches the responder (R155, R156). -/
theorem exec_requestFrame (s : State) (dest src : Byte) (payload : List Byte) (hears : s.hears dest payload) :
    exec (.frameClassify .u dest src (kindCode .mgmtRequest) payload) s = .next (s.counted.manage src payload) := by
  obtain ⟨runs, whole, own⟩ := hears
  have fits : frameFits ⟨dest, src, kindCode .mgmtRequest, payload⟩ = true := decide_eq_true whole
  rw [exec_dispatchFrame _ _ s rfl, State.receiveOn, whenRunning_of s _ runs, State.receiveFrameU,
    if_pos fits, classify_own s _ own]
  simp only [State.takeOwn, State.consumeOwned, kindOf_kindCode, if_true]

theorem frame_short (s : State) (dest src : Byte) (payload : List Byte) (takes : s.takesRequests)
    (hears : s.hears dest payload) (short : payload.length < 5) (req : BitVec 16)
    (number : requestNumber payload = req.toNat) :
    ∃ t, exec (.frameClassify .u dest src (kindCode .mgmtRequest) payload) s = .next t
      ∧ s.counted.Answers t src req .badObject := by
  rw [exec_requestFrame s dest src payload hears, manage_short _ src payload (counted_free s takes) short, number]
  exact ⟨_, rfl, answer_answers s.counted src req .badObject⟩

/-- A request that is judged without an effect is answered, and that is all (R170, R171). -/
theorem frame_answered (s : State) (dest src n1 n0 k o i : Byte) (rest : List Byte) (r : Reply)
    (takes : s.takesRequests) (hears : s.hears dest (n1 :: n0 :: k :: o :: i :: rest))
    (judged : s.counted.perform k.toNat o.toNat i.toNat rest = ((s.counted, r), .nothing)) :
    ∃ t, exec (.frameClassify .u dest src (kindCode .mgmtRequest) (n1 :: n0 :: k :: o :: i :: rest)) s = .next t
      ∧ s.counted.Answers t src (BitVec.ofNat 16 (nat16 n1 n0)) r := by
  have replied := answer_answers s.counted src (BitVec.ofNat 16 (nat16 n1 n0)) r
  rw [nat16_toNat] at replied
  rw [exec_requestFrame s dest src _ hears, manage_performs _ src n1 n0 k o i rest (counted_free s takes), judged]
  exact ⟨_, rfl, replied⟩

/-- A frame whose request is performed as a command's request is that command (R170). -/
theorem frame_spells (s : State) (dest src n1 n0 k o i : Byte) (rest : List Byte) (c : Instr)
    (o' i' : Byte) (record : List Byte) (takes : s.takesRequests)
    (hears : s.hears dest (n1 :: n0 :: k :: o :: i :: rest)) (fits : record.length ≤ rest.length)
    (run : exec c s = .next (s.whenRunning fun x =>
      x.request src (BitVec.ofNat 16 (nat16 n1 n0)) k o' i' record))
    (same : s.counted.perform k.toNat o.toNat i.toNat rest = s.counted.perform k.toNat o'.toNat i'.toNat record) :
    exec (.frameClassify .u dest src (kindCode .mgmtRequest) (n1 :: n0 :: k :: o :: i :: rest)) s = exec c s := by
  have ⟨runs, whole, _⟩ := hears
  have room : record.length + 5 ≤ Config.maxPayload := by
    simp only [List.length_cons] at whole
    omega
  rw [exec_requestFrame s dest src _ hears, manage_performs _ src n1 n0 k o i rest (counted_free s takes), same, run,
    whenRunning_of s _ runs, request_performed s src _ k o' i' record takes room, nat16_toNat]

/-- Settles O52: the responder performs what stands in the frame, which is what the spelled command's frame holds, or
judges it at once. -/
theorem requestsAreSpelledOrAnswered : Obligations.RequestsAreSpelledOrAnswered := by
  intro s dest src payload takes hears
  refine ⟨fun short => frame_short s dest src payload takes hears (by omega) _ (requestNumber_short _ short),
    ?noHeader, ?header⟩
  case noHeader =>
    rintro n1 n0 rest rfl short
    exact frame_short s dest src _ takes hears (by simp only [List.length_cons]; omega) _ (nat16_toNat n1 n0).symm
  rintro n1 n0 k o i rest rfl req spoken
  have zero {b : Byte} {P : Prop} (out : b = 0 ∨ P) : b.toNat = 0 ∨ P := out.imp_left (congrArg BitVec.toNat)
  have answers {r : Reply} := frame_answered s dest src n1 n0 k o i rest r takes hears
  refine ⟨fun unknown => answers (perform_unknown _ _ _ _ _ (zero unknown)), ?read, ?write, ?clear, ?action⟩
  case read =>
    rintro rfl
    exact frame_spells s dest src n1 n0 1 o i rest _ o i [] takes hears (Nat.zero_le _) rfl rfl
  case write =>
    rintro rfl
    refine ⟨fun unknown => answers (congrArg (·, AfterReply.nothing) (writeObject_unknown _ _ _ _ (zero unknown))),
      fun c named => ?_⟩
    have spells (i' : Byte) := frame_spells s dest src n1 n0 2 o i rest c o i' rest takes hears le_rfl
    simp only [List.mem_cons, Prod.mk.injEq, List.not_mem_nil, or_false] at named
    rcases named with ⟨rfl, rfl⟩ | ⟨rfl, rfl⟩ | ⟨rfl, rfl⟩ | ⟨rfl, rfl⟩ | ⟨rfl, rfl⟩ | ⟨rfl, rfl⟩ | ⟨rfl, rfl⟩
      | ⟨rfl, rfl⟩
    all_goals exact spells _ rfl rfl
  case clear =>
    rintro rfl
    refine ⟨fun unknown => answers (congrArg (·, AfterReply.nothing) (clearObject_unknown _ _ _ unknown)),
      fun c named => ?_⟩
    have spells (i' : Byte) := frame_spells s dest src n1 n0 3 o i rest c o i' [] takes hears (Nat.zero_le _)
    simp only [List.mem_cons, Prod.mk.injEq, List.not_mem_nil, or_false] at named
    rcases named with ⟨rfl, rfl⟩ | ⟨rfl, rfl⟩ | ⟨rfl, rfl⟩ | ⟨rfl, rfl⟩
    all_goals exact spells _ rfl rfl
  case action =>
    rintro rfl
    refine ⟨fun unknown => answers (act_unknown _ _ _ _ (zero unknown)), ?noMachine, ?noConverter, ?laden, ?noScan,
      ?scan, ?bare⟩
    case noMachine =>
      rintro rfl out
      exact answers (act_noMachine _ _ _ (zero out))
    case noConverter =>
      rintro rfl out
      exact answers (act_noConverter s.counted _ _ out)
    case laden =>
      rintro laden (bare | ⟨rfl, u, named⟩ | ⟨rfl, c, named, fitted⟩)
      · exact answers (act_laden _ _ _ laden (List.mem_map_of_mem (f := BitVec.toNat) bare))
      · exact answers (act_laden_machine _ named laden)
      · exact answers (act_laden_converter s.counted named fitted laden)
    case noScan =>
      rintro rfl short
      exact answers (act_scanConfig_bad _ i.toNat _ (readScan_length rest short))
    case scan =>
      rintro a b m p rfl rfl
      exact frame_spells s dest src n1 n0 4 9 i _ _ 9 0 _ takes hears le_rfl rfl rfl
    case bare =>
      rintro rfl c named
      have spells (i' : Byte) := frame_spells s dest src n1 n0 4 o i [] c o i' [] takes hears le_rfl
      simp only [List.mem_cons, Prod.mk.injEq, List.not_mem_nil, or_false] at named
      rcases named with ⟨rfl, rfl⟩ | ⟨rfl, rfl⟩ | ⟨rfl, rfl⟩ | ⟨rfl, rfl⟩ | ⟨rfl, rfl⟩ | ⟨rfl, rfl⟩ | ⟨rfl, rfl⟩
        | ⟨rfl, rfl⟩ | ⟨rfl, rfl⟩ | ⟨rfl, rfl⟩ | ⟨rfl, rfl⟩
      all_goals exact spells _ rfl rfl

end Sys2Proof.Machine
end

section
/-! PROOFS. A frame as bytes: what the reader makes of a header and the bytes behind it, and that it inverts the layout
(R154, R190). -/
namespace Sys2Proof.Machine

/-- The layout of section 11.2, field by field. -/
theorem frameBytes_layout (f : Frame) : frameBytes f = f.dest :: f.src :: f.kind
    :: (be16 f.payload.length ++ (f.payload ++ be16 (frameCheck (frameBody f)).toNat)) := rfl

/-- A whole header and a payload of the length that it names, with two bytes behind it: the check decides. -/
theorem parseFrame_header (dest src kind hi lo : Byte) (payload check : List Byte)
    (named : nat16 hi lo = payload.length) (two : check.length = 2) (fits : payload.length ≤ Config.maxPayload) :
    parseFrame (dest :: src :: kind :: hi :: lo :: (payload ++ check)) =
      if check = be16 (frameCheck (frameBody ⟨dest, src, kind, payload⟩)).toNat then some ⟨dest, src, kind, payload⟩
      else none := by
  have long : (payload ++ check).length = payload.length + 2 := by rw [List.length_append, two]
  simp only [parseFrame, named, if_pos (And.intro long fits), List.take_left, List.drop_left]

theorem parseFrame_frameBytes (f : Frame) (fits : f.payload.length ≤ Config.maxPayload) :
    parseFrame (frameBytes f) = some f := by
  have short : f.payload.length < 65536 := lt_of_le_of_lt fits (by decide)
  exact (parseFrame_header _ _ _ _ _ _ _ (be16_nat16 _ short) rfl fits).trans (if_pos rfl)

/-- A reception that reads as a frame has a whole header, then the payload whose length the header names, then
the two bytes of its check. -/
theorem shape_of_parseFrame {b : List Byte} {f : Frame} (parsed : parseFrame b = some f) : ∃ hi lo,
    nat16 hi lo = f.payload.length
      ∧ b = f.dest :: f.src :: f.kind :: hi :: lo :: (f.payload ++ be16 (frameCheck (frameBody f)).toNat) := by
  unfold parseFrame at parsed
  split at parsed
  · rename_i dest src kind hi lo rest
    dsimp only at parsed
    split at parsed
    · rename_i sized
      split at parsed
      · rename_i check
        cases parsed
        exact ⟨hi, lo, (List.length_take_of_le (by omega)).symm, by rw [← check, List.take_append_drop]⟩
      · cases parsed
    · cases parsed
  · cases parsed

theorem frameBytes_of_parseFrame {b : List Byte} {f : Frame} (parsed : parseFrame b = some f) :
    b = frameBytes f := by
  obtain ⟨hi, lo, named, rfl⟩ := shape_of_parseFrame parsed
  rw [frameBytes_layout, ← named, be16_of_nat16, List.cons_append, List.singleton_append]

/-- Settles O12: the reader inverts the layout on frames within the envelope, and takes nothing else. -/
theorem frameReadsBack : Obligations.FrameReadsBack :=
  ⟨parseFrame_frameBytes, fun _ _ parsed => ⟨of_decide_eq_true (parseFrame_fits parsed), frameBytes_of_parseFrame parsed⟩⟩

end Sys2Proof.Machine
end

section
/-! PROOFS. The step on a waiting command; and what is not due, each command's own condition first (R14, R31, R34, R38,
R43, R63, R92, R104, R125, R133, R137, R151, R165, R166, R179; log entry 4). -/
namespace Sys2Proof.Machine
open Host

/-- Settles O1: the step reads the front of the queue. -/
theorem stepTakesTheFrontCommand : Obligations.StepTakesTheFrontCommand := by
  intro s c rest front
  rw [step, front]

/-! ## Effects that leave the part as it is -/

/-- During device reset processing nothing is tried, and otherwise nothing comes of it. -/
theorem whenRunning_idle (s : State) (f : State → State) (idle : f s = s) : s.whenRunning f = s := by
  by_cases reset : s.processing = .deviceReset
  · exact whenRunning_reset s f reset
  · exact (whenRunning_of s f reset).trans idle

/-! ## Timers (R189) -/

/-- A timer that is stopped or whose time has not come is not due. -/
theorem not_dueAt {expiry : Option Time} {now : Time} (ahead : ∀ e, expiry = some e → now < e) :
    ¬ dueAt expiry now = true := by
  cases expiry with
  | none => exact Bool.false_ne_true
  | some e => exact fun due => absurd (of_decide_eq_true due) (Nat.not_le.2 (ahead e rfl))

theorem exec_rampStep_notDue (s : State) (ahead : ∀ e, s.target.rampNext = some e → s.now < e) :
    exec .rampStep s = .next s := by
  refine congrArg Outcome.next (whenRunning_idle s _ ?_)
  cases timer : s.target.rampNext with
  | none => rfl
  | some e => exact if_neg (Nat.not_le.2 (ahead e timer))

theorem exec_resolveTimerExpiry_notDue (s : State) (ahead : ∀ e, s.solver.resolveNext = some e → s.now < e) :
    exec .resolveTimerExpiry s = .next s := by
  refine congrArg Outcome.next (whenRunning_idle s _ ?_)
  cases timer : s.solver.resolveNext with
  | none => rfl
  | some e => exact if_neg (Nat.not_le.2 (ahead e timer))

theorem exec_orderStale_notDue (s : State) (h : s.isRemote = false ∨ s.settings.orderTimeout = 0
    ∨ s.target.staleOrder = true ∨ s.now < s.target.orderRef + s.settings.orderTimeout) :
    exec .orderStale s = .next s := by
  refine congrArg Outcome.next (whenRunning_idle s _ (if_neg fun stale => ?_))
  obtain ⟨remote, timed, fresh, late⟩ := (orderIsStale_iff s).1 stale
  rcases h with away | untimed | already | early
  · exact Bool.false_ne_true (away.symm.trans remote)
  · exact timed untimed
  · exact Bool.false_ne_true (fresh.symm.trans already)
  · exact Nat.not_le.2 early late

theorem exec_headStale_notDue (s : State)
    (h : s.table.headStale = true ∨ s.now < s.table.headRef + s.settings.headStaleTime) :
    exec .headStale s = .next s := by
  refine congrArg Outcome.next (whenRunning_idle s _ (if_neg fun stale => ?_))
  obtain ⟨fresh, late⟩ := (headIsStale_iff s).1 stale
  rcases h with already | early
  · exact Bool.false_ne_true (fresh.symm.trans already)
  · exact Nat.not_le.2 early late

theorem exec_pinEnd_notDue (s : State) (u : UnitId)
    (ahead : (s.tracker u).pin = .pinned → ∀ e, (s.tracker u).pinEnd = some e → s.now < e) :
    exec (.pinEnd u) s = .next s :=
  congrArg Outcome.next (whenRunning_idle s _ (if_neg fun ⟨pinned, due⟩ => not_dueAt (ahead pinned) due))

/-! ## Completions of solves (R38, R61, R80) -/

theorem exec_fullSolveComplete_notDue (s : State) (h : s.isRemote = false ∨ ∀ n, s.solver.phase ≠ .full n) :
    exec .fullSolveComplete s = .next s := by
  refine congrArg Outcome.next (whenRunning_idle s _ ?_)
  cases phase : s.solver.phase with
  | full n =>
    have away : s.isRemote = false := h.resolve_right fun other => other n phase
    exact if_neg (Bool.eq_false_iff.1 away)
  | _ => rfl

theorem exec_loadSolveComplete_notDue (s : State) (h : s.isRemote = false ∨ ∀ n, s.solver.phase ≠ .load n) :
    exec .loadSolveComplete s = .next s := by
  refine congrArg Outcome.next (whenRunning_idle s _ ?_)
  cases phase : s.solver.phase with
  | load n =>
    have away : s.isRemote = false := h.resolve_right fun other => other n phase
    exact if_neg (Bool.eq_false_iff.1 away)
  | _ => rfl

/-! ## Links (R133, R137, R165) -/

/-- Where nothing or a poll is being sent, no order and no forwarded frame ends (R133). -/
theorem lineSent_elsewhere (s : State) (h : ∀ w f, s.line.activity = .sending w f → ∃ a advance, w = .poll a advance) :
    s.lineSent = s := by
  unfold State.lineSent
  split
  · rename_i order f sends
    obtain ⟨a, advance, poll⟩ := h _ f sends
    cases poll
  · rename_i f sends
    obtain ⟨a, advance, poll⟩ := h _ f sends
    cases poll
  · rfl

theorem pollSent_elsewhere (s : State) (h : ∀ a advance f, s.line.activity ≠ .sending (.poll a advance) f) :
    s.pollSent = s := by
  unfold State.pollSent
  split
  · rename_i a advance f polls
    exact absurd polls (h a advance f)
  · rfl

theorem windowTimeout_closed (s : State) (h : ∀ a advance n expired, s.line.activity ≠ .window a advance n expired) :
    s.windowTimeout = s := by
  unfold State.windowTimeout
  split
  · rename_i a advance n expired window
    exact absurd window (h a advance n expired)
  · rfl

theorem dispatchSent_idle (s : State) (idle : s.port.tx = none) : s.dispatchSent = s := by
  simp only [State.dispatchSent, idle]

theorem cutAtLimit_silent (s : State) (silent : s.line.rx = none) : s.cutAtLimit = s := by
  simp only [State.cutAtLimit, silent]

/-! ## Whatever is not due (log entry 4) -/

/-- Settles O27: each command's guard is the condition under which it is due; the other commands are never held to be
not due. -/
theorem whatIsNotDueHasNoEffect : Obligations.WhatIsNotDueHasNoEffect := by
  intro c s h
  cases c with
  | rampStep => exact exec_rampStep_notDue s h
  | orderStale => exact exec_orderStale_notDue s h
  | headStale => exact exec_headStale_notDue s h
  | resolveTimerExpiry => exact exec_resolveTimerExpiry_notDue s h
  | statusTimerExpiry => exact congrArg Outcome.next (whenRunning_idle s _ (if_neg (Nat.not_le.2 h)))
  | transitionDeadline u => exact congrArg Outcome.next (whenRunning_idle s _ (if_neg (not_dueAt h)))
  | pinEnd u => exact exec_pinEnd_notDue s u h
  | converterDeadline k => exact congrArg Outcome.next (whenRunning_idle s _ (if_neg (not_dueAt h)))
  | fullSolveComplete => exact exec_fullSolveComplete_notDue s h
  | loadSolveComplete => exact exec_loadSolveComplete_notDue s h
  | engineResetEnd => exact congrArg Outcome.next (if_neg h)
  | lineResetEnd => exact congrArg Outcome.next (whenRunning_idle s _ (if_neg h))
  | deviceResetEnd =>
    refine congrArg Outcome.next (if_neg fun ⟨reset, high⟩ => ?_)
    rcases h with running | low
    · exact running reset
    · exact Bool.false_ne_true (high.symm.trans low)
  | unitLineTxEnd => exact congrArg Outcome.next (whenRunning_idle s _ (lineSent_elsewhere s h))
  | pollTxEnd => exact congrArg Outcome.next (whenRunning_idle s _ (pollSent_elsewhere s h))
  | dispatchTxEnd => exact congrArg Outcome.next (whenRunning_idle s _ (dispatchSent_idle s h))
  | replyWindowTimeout => exact congrArg Outcome.next (whenRunning_idle s _ (windowTimeout_closed s h))
  | receptionLimit => exact congrArg Outcome.next (cutAtLimit_silent s h)
  | _ => exact False.elim h

end Sys2Proof.Machine
end
